-- ==== Sys2Proof/Word.lean ====
section
/-! DEFINITION. The word types of the block. Every value is unsigned and bit 0 is the least significant bit (R8). -/

namespace Sys2Proof

/-- Eight bits: a table entry, a colour or brightness value, an increment, an index, the debounce counter (R23 to R33). -/
abbrev Byte := BitVec 8

/-- Sixteen bits: a phase accumulator (R22) or a command word (R70). -/
abbrev Word := BitVec 16

/-- The raw level `L` of the button line, one bit: 0 for low and 1 for high (R72). -/
abbrev ButtonLevel := BitVec 1

end Sys2Proof
end

