-- ==== Sys2Proof/Config.lean ====
section
/-! DEFINITION. The static configuration of the block: one field for each row of the parameter table R6 whose value a
configuration may choose, with the source's value as the field's default where the table gives one. The three width rows
`PHASE_W` = 16, `INC_W` = 8 and `CNT_W` = 8 are the widths of the types. A configuration is plain data, is a field of the
state, and is written by no operation (R61, R220). -/

namespace Sys2Proof

/-- The four channels (R22): 0 is R, 1 is G, 2 is B and, when `NCH = 4`, 3 is BR (brightness). -/
inductive Channel where
  | r
  | g
  | b
  | br
deriving DecidableEq, Repr

/-- The channel's index in 0..3 (R22). -/
def Channel.index : Channel → Nat
  | .r => 0
  | .g => 1
  | .b => 2
  | .br => 3

/-- One 16-bit accumulator for each channel (R22). With `NCH = 3` the field `br` is no register of the block: nothing
reads it and nothing but reset writes it (log entry 4). -/
structure Phases where
  r : Word
  g : Word
  b : Word
  br : Word
deriving DecidableEq, Repr

/-- A colour-plan descriptor (R28). -/
inductive Plan where
  /-- `Cycling(inc[0..NCH-1])`: the 8-bit phase increments in channel order (R, G, B, then BR). -/
  | cycling (inc : List Byte)
  /-- `Fixed(r, g, b)`: a constant colour. -/
  | fixed (r g b : Byte)
  /-- `Custom(k)`: a reference to custom slot k. -/
  | custom (k : Byte)
deriving DecidableEq, Repr, Inhabited

/-- `BRIGHT_SRC` (R6): where the brightness of a Cycling or Fixed frame comes from. -/
inductive BrightSrc where
  | level
  | phase
deriving DecidableEq, Repr

/-- `LONG_ACTION` (R6): what a long press does. -/
inductive LongAction where
  | advBright
  | capture
deriving DecidableEq, Repr

/-- The static configuration (R6). -/
structure Config where
  /-- `NCH`: the number of phase channels, 3 or 4. -/
  nch : Nat
  /-- `SINE_LUT[0..127]` (R29); the contents are open. -/
  sineLut : Vector Byte 128
  /-- `GAMMA_LUT[0..255]` (R30); the contents are open but for R7 (h). -/
  gammaLut : Vector Byte 256
  /-- `GAMMA_EN`: gamma correction applied to colour channels. -/
  gammaEn : Bool
  /-- `FLOOR_EN`: floor offset added to colour sine samples. -/
  floorEn : Bool
  /-- `FLOOR_VAL`: the floor offset. -/
  floorVal : Byte := 15
  /-- `BRIGHT_SRC`. -/
  brightSrc : BrightSrc
  /-- `BRIGHT_SHIFT`: right shift of the sine sample when `BRIGHT_SRC = PHASE`. -/
  brightShift : Nat := 3
  /-- `BRIGHT_MASK`: mask of the brightness level; 0x31 is the source's literal (90_conflicts.md C2). -/
  brightMask : Byte := 0x31
  /-- `PLAN[0..N_COLOR-1]` (R28). -/
  plan : List Plan
  /-- `LEVEL[0..N_BRIGHT-1]` (R31). -/
  level : List Byte
  /-- `N_SLOTS`: the number of custom slots, in 0..256. -/
  nSlots : Fin 257
  /-- `LONG_ACTION`. -/
  longAction : LongAction
  /-- `PERIOD_MS`: the nominal cycle period. -/
  periodMs : Nat := 200
  /-- `SHORT_MS`: the short-press time. -/
  shortMs : Nat := 1000
  /-- `LONG_MS`: the long-press time. -/
  longMs : Nat := 5000
  /-- `CNT_MAX`: the saturation ceiling of the debounce counter. -/
  cntMax : Byte := 255
  /-- `LED_COUNT`: the number of LED positions each frame is sent to. -/
  ledCount : Nat
  /-- `PHASE_INIT[c]`: the reset value of each phase. -/
  phaseInit : Phases := ⟨0, 0, 0, 0⟩
  /-- `CIDX_INIT`: the reset value of the colour-plan index. -/
  cidxInit : Byte := 0
  /-- `BIDX_INIT`: the reset value of the brightness-plan index. -/
  bidxInit : Byte := 0
  /-- `MS_WIDTH`: the width of the external millisecond clock; only the tick source outside the block uses it (R232). -/
  msWidth : Nat
deriving DecidableEq, Repr

/-- `N_COLOR` (R6): the number of entries of `PLAN`. -/
def Config.nColor (c : Config) : Nat := c.plan.length

/-- `N_BRIGHT` (R6): the number of entries of `LEVEL`. -/
def Config.nBright (c : Config) : Nat := c.level.length

/-- `SHORT_TH = SHORT_MS div PERIOD_MS` (R6, R169). -/
def Config.shortTh (c : Config) : Nat := c.shortMs / c.periodMs

/-- `LONG_TH = LONG_MS div PERIOD_MS` (R6, R169). -/
def Config.longTh (c : Config) : Nat := c.longMs / c.periodMs

/-- A sine table of which nothing is known: the contents are not in the source (R29, 91_not_in_source.md N1). A free
value: no proof can tell any entry (log entry 1). -/
opaque Config.openSineLut : Vector Byte 128

/-- An LED count of which nothing is known (R6 `LED_COUNT`, 91_not_in_source.md N6). A free value (log entry 1). -/
opaque Config.openLedCount : Nat

/-- A clock width of which nothing is known (R6 `MS_WIDTH`, 91_not_in_source.md N15). A free value (log entry 1). -/
opaque Config.openMsWidth : Nat

/-- What a read of `PLAN` at an index beyond its end would give. R53 shows that no operation makes such a read; a free value
(log entry 7). -/
opaque Config.openPlan : Byte → Plan

/-- What a read of `LEVEL` at an index beyond its end would give; a free value (R53, log entry 7). -/
opaque Config.openLevel : Byte → Byte

/-- What a read of a byte of a custom slot beyond the `N_SLOTS` slots would give; a free value (R53, log entry 7). -/
opaque Config.openSlotByte : Nat → Byte

end Sys2Proof
end

