-- ==== Sys2Proof/Machine/ResetConfig.lean ====
section
/-! DEFINITION. The configuration in which `State.reset` stands. The spec leaves the configuration to the integrator, who
fixes it before reset is released (R223); a model takes it as an argument, and here it is the field `cfg` of the state, so
that a statement about every state is a statement about every configuration. The ONE state right after reset needs one: it
takes the spec's own test configuration TC (92_eei_decisions.md D32), with the sine table left open (log entry 1). -/

namespace Sys2Proof.Machine

/-- The identity table, which meets R7 (h). No operation of TC reads it: `GAMMA_EN` is false there (log entry 1). -/
def identityGamma : Vector Byte 256 := ⟨((List.range 256).map (BitVec.ofNat 8)).toArray, by simp⟩

/-- TC's colour plans: "Fast", "Medium", "Slow", "Glacial" and "Lamp" (92_eei_decisions.md D32). -/
def testPlans : List Plan :=
  [.cycling [64, 48, 32], .cycling [16, 12, 8], .cycling [4, 3, 2], .cycling [1, 1, 1], .fixed 255 147 41]

/-- TC (92_eei_decisions.md D32), with every value the spec leaves open even there a free value. -/
def resetConfig : Config where
  nch := 3
  sineLut := Config.openSineLut
  gammaLut := identityGamma
  gammaEn := false
  floorEn := false
  brightSrc := .level
  plan := testPlans
  level := [11, 19, 31]
  nSlots := 0
  longAction := .advBright
  ledCount := Config.openLedCount
  msWidth := Config.openMsWidth

end Sys2Proof.Machine
end

