-- ==== Sys2Proof/Syntax.lean ====
section
/-! DEFINITION. The command ports and the commands of the block (R70, R71): one constructor of `Instr` per row of
spec/opcode_table.json. -/

namespace Sys2Proof

/-- The two command ports (R70). -/
inductive Port where
  /-- `tick_port` carries TICK words. -/
  | tickPort
  /-- `host_port` carries SETC and SETB words. -/
  | hostPort
deriving DecidableEq, Repr

/-- The commands (R71). The operands have the widths of their fields, so every value of the type is a command of the
table. -/
inductive Instr where
  /-- `TICK L`: run one cycle with raw button level L (R161). -/
  | tick (l : ButtonLevel)
  /-- `SETC i`: set the active colour plan directly (R132). -/
  | setc (i : Byte)
  /-- `SETB i`: set the active brightness plan directly (R133). -/
  | setb (i : Byte)
deriving DecidableEq, Repr

/-- The port that carries the command (R71, column "port"). -/
def Instr.port : Instr → Port
  | .tick _ => .tickPort
  | .setc _ => .hostPort
  | .setb _ => .hostPort

end Sys2Proof
end

