-- ==== Sys2Proof/Machine/State.lean ====
section
/-! DEFINITION. The state of the block: the registers, tables and memory of R20, the words that stand at its two command
ports and the reset input (R38), and the event trace that `emit` appends to (R9). Plain data throughout. -/

namespace Sys2Proof.Machine

/-- A tuple (R, G, B, BR) of four bytes (R11, R52). -/
structure Tuple where
  r : Byte
  g : Byte
  b : Byte
  br : Byte
deriving DecidableEq, Repr

/-- The tuple of a blank (R36). -/
def Tuple.zero : Tuple := ⟨0, 0, 0, 0⟩

/-- The mode-machine states (R24), with the spec's names for `Idle`, `Held` and `ReleaseWait`. -/
inductive Fsm where
  | idle
  | hold
  | relwait
deriving DecidableEq, Repr

/-- Which index a report carries (R37). -/
inductive ReportKind where
  | color
  | bright
deriving DecidableEq, Repr

/-- The output events (R36, R37). -/
inductive Event where
  /-- `Frame(q)`: q is written to every LED position. -/
  | frame (q : Tuple)
  /-- `Report(COLOR, i)` or `Report(BRIGHT, i)`. -/
  | report (kind : ReportKind) (i : Byte)
deriving DecidableEq, Repr

/-- The custom-slot memory's contents: (address, byte) pairs, addresses strictly rising, no entry with the byte 0 that an
unlisted address reads as (R32 and R39 give every field the reset value 0). Field j of slot k, in the order (R, G, B, BR),
has the address 4k + j (log entry 3). -/
abbrev Memory := List Host.Cell

/-- What the outside asks of the block next: that the word at a port be taken, or that reset be asserted (R38, R58). -/
inductive Turn where
  | port (p : Port)
  | reset
deriving DecidableEq, Repr

/-- The reasons for a fault: none. The block has no fault outcome (R10, R200). -/
inductive Fault
deriving DecidableEq, Repr

/-- Why a step has no meaning. Both are SAFE. -/
inductive Refusal where
  /-- An instruction that has no meaning yet; no arm of `exec` raises it now. -/
  | notModelled (mnemonic : String)
  /-- R7, R10 (d): the configuration is not well formed, or its initial indices break the invariants of R25 and R26 (log
  entry 6); raised by every step and every instruction. -/
  | configNotWellFormed
deriving DecidableEq, Repr

/-- The state. -/
structure State where
  /-- The static configuration with the tables PLAN, SINE_LUT, GAMMA_LUT and LEVEL (R6, R28 to R31); no operation writes it. -/
  cfg : Config
  /-- `phase[c]` (R22). -/
  phase : Phases
  /-- `cnt`, the debounce counter (R23). -/
  cnt : Byte
  /-- `fsm`, the mode-machine state (R24). -/
  fsm : Fsm
  /-- `cidx`, the active colour-plan index (R25). -/
  cidx : Byte
  /-- `bidx`, the active brightness-plan index (R26). -/
  bidx : Byte
  /-- `sidx`, the next custom slot (R27). -/
  sidx : Byte
  /-- `slot[k]`, the custom-slot memory (R32). -/
  slot : Memory
  /-- `cur`, the tuple of the last non-blank frame (R33). -/
  cur : Tuple
  /-- The words presented on tick_port and not yet taken, first come first (R70). -/
  tickWords : List Word
  /-- The words presented on host_port and not yet accepted; the first is the one a stall keeps pending (R70, R78). -/
  hostWords : List Word
  /-- The order in which the outside lets the ports and the reset input act: the interleaving of R58, as data. -/
  turns : List Turn
  /-- The events emitted so far, the oldest first (R9, R234). -/
  trace : List Event
deriving DecidableEq, Repr

/-- The state right after reset in a configuration, with no word presented and no event emitted (R39, R220). -/
def State.resetWith (c : Config) : State where
  cfg := c
  phase := c.phaseInit
  cnt := 0
  fsm := .idle
  cidx := c.cidxInit
  bidx := c.bidxInit
  sidx := 0
  slot := []
  cur := Tuple.zero
  tickWords := []
  hostWords := []
  turns := []
  trace := []

/-- The machine right after reset (R39). -/
def State.reset : State := State.resetWith resetConfig

end Sys2Proof.Machine
end

