-- ==== Sys2Proof/WellFormed.lean ====
section
/-! DEFINITION. The well-formedness checks: of a configuration, one Bool for each condition (a) to (h) of R7 and one for its
initial indices, and of a command on a port (R71, R75 (d) and (e)). A command by itself needs no check: its operands have
the widths of their fields. -/

namespace Sys2Proof

/-- R7 (a): `NCH` is 3 or 4. -/
def Config.nchOk (c : Config) : Bool := decide (c.nch = 3 ∨ c.nch = 4)

/-- R7 (b): `BRIGHT_SRC = PHASE` implies `NCH = 4`. -/
def Config.brightSrcOk (c : Config) : Bool := decide (c.brightSrc = .phase → c.nch = 4)

/-- R7 (c): `1 <= N_COLOR <= 256` and `1 <= N_BRIGHT <= 256`. -/
def Config.countsOk (c : Config) : Bool :=
  decide (1 ≤ c.nColor ∧ c.nColor ≤ 256 ∧ 1 ≤ c.nBright ∧ c.nBright ≤ 256)

/-- R7 (d): a Cycling descriptor carries exactly `NCH` increments. -/
def Plan.incrementsOk (nch : Nat) : Plan → Bool
  | .cycling inc => inc.length == nch
  | .fixed _ _ _ => true
  | .custom _ => true

/-- R7 (e): a Custom(k) descriptor has `k < N_SLOTS`. -/
def Plan.slotOk (nSlots : Nat) : Plan → Bool
  | .cycling _ => true
  | .fixed _ _ _ => true
  | .custom k => decide (k.toNat < nSlots)

/-- R7 (d) for every descriptor of `PLAN`. -/
def Config.incrementsOk (c : Config) : Bool := c.plan.all (Plan.incrementsOk c.nch)

/-- R7 (e) for every descriptor of `PLAN`. -/
def Config.slotsOk (c : Config) : Bool := c.plan.all (Plan.slotOk c.nSlots.val)

/-- R7 (f): `LONG_ACTION = CAPTURE` implies `N_SLOTS >= 1`. -/
def Config.captureOk (c : Config) : Bool := decide (c.longAction = .capture → 1 ≤ c.nSlots.val)

/-- R7 (g): `SHORT_TH < LONG_TH`. A `PERIOD_MS` of 0, which R227 (d) forbids, fails here: both quotients are then 0. -/
def Config.thresholdsOk (c : Config) : Bool := decide (c.shortTh < c.longTh)

/-- The bytes do not decrease from one to the next, and the first is at least `lo`. -/
def nonDecreasingFrom : Byte → List Byte → Bool
  | _, [] => true
  | lo, v :: vs => decide (lo.toNat ≤ v.toNat) && nonDecreasingFrom v vs

/-- R7 (h): `GAMMA_LUT` is monotonically non-decreasing, with `GAMMA_LUT[0] = 0` and `GAMMA_LUT[255] = 255`. -/
def Config.gammaOk (c : Config) : Bool :=
  nonDecreasingFrom 0 c.gammaLut.toList && c.gammaLut[0] == 0 && c.gammaLut[255] == 255

/-- A configuration is well formed when all of R7 (a) to (h) hold. -/
def Config.wellFormed (c : Config) : Bool :=
  c.nchOk && c.brightSrcOk && c.countsOk && c.incrementsOk && c.slotsOk && c.captureOk && c.thresholdsOk && c.gammaOk

/-- The reset values of the two plan indices are in range. R6 gives both the value 0, for which R7 (c) implies it; for any
other value (92_eei_decisions.md D21) R25, R26 and R40 (a), (b) ask it, since the indices are in range always (log
entry 6). -/
def Config.initInRange (c : Config) : Bool := decide (c.cidxInit.toNat < c.nColor ∧ c.bidxInit.toNat < c.nBright)

/-- The configurations under which the block runs: well formed (R7), and with initial indices that keep the invariants of R25
and R26. A configuration that violates either is refused (93_implementation_defined.md I15). -/
def Config.admitted (c : Config) : Bool := c.wellFormed && c.initInRange

/-- A command is well formed on a port when the port is the one that carries it: a TICK on host_port, or a SETC or SETB
on tick_port, is no command there (R75 (d), (e)). -/
def Instr.wellFormedOn (p : Port) (i : Instr) : Bool := decide (i.port = p)

end Sys2Proof
end

