-- ==== Sys2Proof/Machine/Ops.lean ====
section
/-! DEFINITION. The named operations that the meanings share: one write for each field of the state, `emit` and the other
primitives of R9, the custom-slot memory, the refusal of R7, and the table reads. The block has no exception, so nothing
here takes one: R200 gives it no exception and no trap, and R204 no trap entry, no saved state, no handler address and no
return. -/

namespace Sys2Proof.Machine

/-- The outcome of an operation. -/
abbrev Out := Host.Outcome State Fault Refusal

/-- R7, R10 (d): an operation that goes from `s` to `t` has a meaning only under a configuration that is admitted. -/
def withConfig (s t : State) : Out :=
  if s.cfg.admitted then .next t else .refused .configNotWellFormed

/-! ## The writes of the registers (R9: `r <- v`) -/

def State.setPhase (s : State) (v : Phases) : State := { s with phase := v }

def State.setCnt (s : State) (v : Byte) : State := { s with cnt := v }

def State.setFsm (s : State) (v : Fsm) : State := { s with fsm := v }

def State.setCidx (s : State) (v : Byte) : State := { s with cidx := v }

def State.setBidx (s : State) (v : Byte) : State := { s with bidx := v }

def State.setSidx (s : State) (v : Byte) : State := { s with sidx := v }

def State.setSlot (s : State) (v : Memory) : State := { s with slot := v }

def State.setCur (s : State) (v : Tuple) : State := { s with cur := v }

def State.setTickWords (s : State) (v : List Word) : State := { s with tickWords := v }

def State.setHostWords (s : State) (v : List Word) : State := { s with hostWords := v }

def State.setTurns (s : State) (v : List Turn) : State := { s with turns := v }

/-- `emit E` appends the event to the trace (R9). -/
def State.emit (s : State) (e : Event) : State := { s with trace := s.trace ++ [e] }

/-! ## The primitives of R9 -/

/-- `sat_inc(v)`: `v + 1` if `v < CNT_MAX`, and `v` otherwise. -/
def satInc (c : Config) (v : Byte) : Byte := if v.toNat < c.cntMax.toNat then v + 1 else v

/-- `wrap_inc(i, N)`: 0 if `i = N - 1`, and `i + 1` otherwise. -/
def wrapInc (i : Byte) (n : Nat) : Byte := if i.toNat = n - 1 then 0 else i + 1

/-! ## The channels -/

/-- `phase[c]` (R22). -/
def phaseOf (p : Phases) : Channel → Word
  | .r => p.r
  | .g => p.g
  | .b => p.b
  | .br => p.br

/-! ## The custom-slot memory (R32, R50, R51) -/

/-- The byte at an address; an unlisted address reads as 0 (R32, R39). -/
def Memory.read : Memory → Nat → Byte
  | [], _ => 0#8
  | (b, x) :: m, a => if a = b then x else Memory.read m a

/-- Write one byte and keep the canonical form: writing 0 removes the entry. -/
def Memory.write : Memory → Nat → Byte → Memory
  | [], a, v => if v = 0#8 then [] else [(a, v)]
  | (b, x) :: m, a, v =>
    if a < b then (if v = 0#8 then (b, x) :: m else (a, v) :: (b, x) :: m)
    else if a = b then (if v = 0#8 then m else (a, v) :: m)
    else (b, x) :: Memory.write m a v

/-- Every address of the memory is at least `lo`, the addresses rise strictly, and no byte is 0. -/
def Memory.wfFrom : Nat → Memory → Bool
  | _, [] => true
  | lo, (a, v) :: m => decide (lo ≤ a) && v != 0#8 && Memory.wfFrom (a + 1) m

/-- The canonical form: addresses strictly rising and no entry equal to what an unlisted address reads as. -/
def Memory.wf (m : Memory) : Bool := Memory.wfFrom 0 m

/-- Every listed address is below `hi`. -/
def Memory.below (hi : Nat) (m : Memory) : Bool := m.all fun c => decide (c.1 < hi)

/-- The address of field 0 of slot k; its four fields follow it (log entry 3). -/
def slotAddr (k : Byte) : Nat := 4 * k.toNat

/-- `slot[k]` as one whole tuple (R51). -/
def Memory.readTuple (m : Memory) (a : Nat) : Tuple := ⟨m.read a, m.read (a + 1), m.read (a + 2), m.read (a + 3)⟩

/-- `slot[k] <- q` as one whole tuple (R9 `MemWrite(SLOT, k, 4, q)`, R51). -/
def Memory.writeTuple (m : Memory) (a : Nat) (q : Tuple) : Memory :=
  (((m.write a q.r).write (a + 1) q.g).write (a + 2) q.b).write (a + 3) q.br

/-! ## The table and memory accesses (R50). No operation makes one out of range (R53); in a state that no run reaches, such a
read gives a free value and such a write stores nothing (log entry 7) -/

/-- `PLAN[cidx]`. -/
def State.activePlan (s : State) : Plan := (s.cfg.plan[s.cidx.toNat]?).getD (Config.openPlan s.cidx)

/-- `LEVEL[bidx]`. -/
def State.activeLevel (s : State) : Byte := (s.cfg.level[s.bidx.toNat]?).getD (Config.openLevel s.bidx)

/-- `slot[k]`. -/
def State.readSlot (s : State) (k : Byte) : Tuple :=
  let a := slotAddr k
  if k.toNat < s.cfg.nSlots.val then s.slot.readTuple a
  else ⟨Config.openSlotByte a, Config.openSlotByte (a + 1), Config.openSlotByte (a + 2), Config.openSlotByte (a + 3)⟩

/-- `slot[k] <- q`. -/
def State.writeSlot (s : State) (k : Byte) (q : Tuple) : State :=
  if k.toNat < s.cfg.nSlots.val then s.setSlot (s.slot.writeTuple (slotAddr k) q) else s

/-- `SINE_LUT[idx]` with a 7-bit index (R101). -/
def sineAt (c : Config) (idx : BitVec 7) : Byte := c.sineLut[idx.toNat]

/-- `GAMMA_LUT[v]` with an 8-bit index (R103). -/
def gammaAt (c : Config) (v : Byte) : Byte := c.gammaLut[v.toNat]

end Sys2Proof.Machine
end

