-- ==== Sys2Proof/Machine/Animation.lean ====
section
/-! DEFINITION. The phase accumulators, the sine and gamma tables and the render (R100 to R110): the animation step ANIM
and its parts, which the meaning of TICK calls. -/

namespace Sys2Proof.Machine

/-- `inc[c]` of a Cycling descriptor; R7 (d) gives it one for each of the `NCH` channels. -/
def incOf (inc : List Byte) (c : Channel) : Byte := inc.getD c.index 0

/-- One lane of PHASE_ADVANCE (R100): `(phase[c] + zext_16(inc[c])) mod 65536`, for c in 0..NCH-1. -/
def advanceLane (nch : Nat) (inc : List Byte) (c : Channel) (p : Word) : Word :=
  if c.index < nch then p + (incOf inc c).setWidth 16 else p

/-- PHASE_ADVANCE(inc) on the accumulators (R100). -/
def advancePhases (nch : Nat) (inc : List Byte) (p : Phases) : Phases :=
  ⟨advanceLane nch inc .r p.r, advanceLane nch inc .g p.g, advanceLane nch inc .b p.b, advanceLane nch inc .br p.br⟩

/-- PHASE_ADVANCE(inc) (R100). -/
def phaseAdvance (inc : List Byte) (s : State) : State := s.setPhase (advancePhases s.cfg.nch inc s.phase)

/-- The sine index `phase[14:8]` (R101, 90_conflicts.md C1). -/
def sineIndex (p : Word) : BitVec 7 := p.extractLsb' 8 7

/-- SINE_SAMPLE(c) (R101). -/
def sineSample (s : State) (c : Channel) : Byte := sineAt s.cfg (sineIndex (phaseOf s.phase c))

/-- FLOOR(s) (R102): the sum wraps modulo 256. -/
def floorOf (c : Config) (v : Byte) : Byte := if c.floorEn then v + c.floorVal else v

/-- GAMMA(v) (R103). -/
def gammaOf (c : Config) (v : Byte) : Byte := if c.gammaEn then gammaAt c v else v

/-- The masked brightness level `LEVEL[bidx] & BRIGHT_MASK` (R104, R131). -/
def maskedLevel (s : State) : Byte := s.activeLevel &&& s.cfg.brightMask

/-- BRIGHT_OF() (R104). -/
def brightOf (s : State) : Byte :=
  match s.cfg.brightSrc with
  | .level => maskedLevel s
  | .phase => sineSample s .br >>> s.cfg.brightShift

/-- COLOUR(c) (R105): sine sample, then floor, then gamma. -/
def colour (s : State) (c : Channel) : Byte := gammaOf s.cfg (floorOf s.cfg (sineSample s c))

/-- RENDER(q) (R108): `emit Frame(q); cur <- q`. -/
def render (q : Tuple) (s : State) : State := (s.emit (.frame q)).setCur q

/-- BLANK (R110): `emit Frame(0, 0, 0, 0)`; `cur` is not written. -/
def blank (s : State) : State := s.emit (.frame Tuple.zero)

/-- The Cycling branch of ANIM (R107). -/
def animCycling (inc : List Byte) (s : State) : State :=
  let s' := phaseAdvance inc s
  render ⟨colour s' .r, colour s' .g, colour s' .b, brightOf s'⟩ s'

/-- The Fixed branch of ANIM: FIXED_COLOUR(r, g, b) (R106, R107). -/
def animFixed (r g b : Byte) (s : State) : State :=
  render ⟨gammaOf s.cfg r, gammaOf s.cfg g, gammaOf s.cfg b, brightOf s⟩ s

/-- The Custom branch of ANIM: the whole stored tuple (R107). -/
def animCustom (k : Byte) (s : State) : State := render (s.readSlot k) s

/-- ANIM (R107). -/
def anim (s : State) : State :=
  match s.activePlan with
  | .cycling inc => animCycling inc s
  | .fixed r g b => animFixed r g b s
  | .custom k => animCustom k s

end Sys2Proof.Machine
end

