-- ==== Sys2Proof/Machine/Flags.lean ====
section
/-! DEFINITION. The block has no condition flag and no status register (R34). Its one status output is `cmd_ready`, a
function of `fsm`; and `fsm` has the 2-bit encoding of R24. -/

namespace Sys2Proof.Machine

/-- `cmd_ready`, 1 exactly when `fsm = IDLE` (R34). -/
def State.cmdReady (s : State) : Bool := s.fsm == .idle

/-- The 2-bit encoding of `fsm`; the value 3 is never written (R24). -/
def Fsm.code : Fsm → BitVec 2
  | .idle => 0
  | .hold => 1
  | .relwait => 2

end Sys2Proof.Machine
end

