-- ==== Sys2Proof/Machine/Operands.lean ====
section
/-! DEFINITION. The operand forms (R72, R73): the raw button level of a TICK and the plan index of SETC and SETB. There is
no other operand and no addressing mode. -/

namespace Sys2Proof.Machine

/-- The button is active low: `p = (L = 0)` (R72). -/
def pressed (l : ButtonLevel) : Bool := l == 0

/-- A plan index, unsigned and unscaled, is valid for a table of n entries when `i <= n - 1` (R73, R132, R133). For `n = 0`,
which R7 (c) excludes, no index is valid. -/
def indexValid (i : Byte) (n : Nat) : Bool := decide (i.toNat < n)

end Sys2Proof.Machine
end

