-- ==== Sys2Proof/Machine/Selector.lean ====
section
/-! DEFINITION. The colour/brightness plan selector (R130 to R134): the two advance operations and the capture, which the
meaning of TICK calls, and the meanings of SETC and SETB. -/

namespace Sys2Proof.Machine

/-- ADVANCE_COLOR (R130). -/
def advanceColor (s : State) : State :=
  let i := wrapInc s.cidx s.cfg.nColor
  (s.setCidx i).emit (.report .color i)

/-- The brightness `nb` of the off-cycle render (R131). -/
def offCycleBright (s : State) : Byte :=
  match s.cfg.brightSrc with
  | .level => maskedLevel s
  | .phase => s.cur.br

/-- ADVANCE_BRIGHT (R131): advance, report, and render the colour of `cur` at the new brightness. -/
def advanceBright (s : State) : State :=
  let i := wrapInc s.bidx s.cfg.nBright
  let s' := (s.setBidx i).emit (.report .bright i)
  render ⟨s'.cur.r, s'.cur.g, s'.cur.b, offCycleBright s'⟩ s'

/-- `n` flashes of a capture (R134): each is Frame(cur), which does not write `cur`, and then BLANK. -/
def flash : Nat → State → State
  | 0, s => s
  | n + 1, s => flash n (blank (s.emit (.frame s.cur)))

/-- CAPTURE (R134). -/
def capture (s : State) : State :=
  let k := s.sidx
  (flash (k.toNat + 1) (s.writeSlot k s.cur)).setSidx (BitVec.ofNat 8 ((k.toNat + 1) % s.cfg.nSlots.val))

/-- `cidx <- i` if i is a valid colour-plan index, otherwise nothing (R132). -/
def setColorPlan (i : Byte) (s : State) : State := if indexValid i s.cfg.nColor then s.setCidx i else s

/-- `bidx <- i` if i is a valid brightness-plan index, otherwise nothing (R133). -/
def setBrightPlan (i : Byte) (s : State) : State := if indexValid i s.cfg.nBright then s.setBidx i else s

/-- SETC i (R132). While `cmd_ready = 0` the command is stalled and has no effect (R78, R10 (c)); the port keeps the word
(Machine/Ports.lean) and `step` does not execute the command then (log entry 14). -/
def execSetc (i : Byte) (s : State) : Out := withConfig s (if s.cmdReady then setColorPlan i s else s)

/-- SETB i (R133), with the same acceptance rule. -/
def execSetb (i : Byte) (s : State) : Out := withConfig s (if s.cmdReady then setBrightPlan i s else s)

end Sys2Proof.Machine
end

