-- ==== Sys2Proof/Machine/Button.lean ====
section
/-! DEFINITION. The button debounce, the mode state machine and the meaning of TICK (R160 to R166). -/

namespace Sys2Proof.Machine

/-- DEBOUNCE(p) (R160): a pressed sample increments the counter with saturation, a released one clears it. -/
def debounce (p : Bool) (s : State) : State := s.setCnt (if p then satInc s.cfg s.cnt else 0)

/-- The counter of a TICK in HOLD (R161): a pressed sample increments it with saturation, a released one leaves it. -/
def holdCount (p : Bool) (s : State) : State := if p then s.setCnt (satInc s.cfg s.cnt) else s

/-- `cnt > SHORT_TH`, strictly (R162). -/
def overShort (s : State) : Bool := decide (s.cfg.shortTh < s.cnt.toNat)

/-- `cnt > LONG_TH`, strictly (R164). -/
def overLong (s : State) : Bool := decide (s.cfg.longTh < s.cnt.toNat)

/-- LONG_ACT (R166). -/
def longAct (s : State) : State :=
  match s.cfg.longAction with
  | .advBright => advanceBright s
  | .capture => capture s

/-- A TICK in IDLE (R162): debounce, and then either the blank that enters HOLD or the animation step. -/
def tickIdle (p : Bool) (s : State) : State :=
  let s' := debounce p s
  if overShort s' then (blank s').setFsm .hold else anim s'

/-- The short press (R164): advance the colour plan, clear the counter, return to IDLE and animate with the new plan. -/
def shortPress (s : State) : State := anim (((advanceColor s).setCnt 0).setFsm .idle)

/-- The long press (R164): the configured action, then clear the counter and wait for the release. -/
def longPress (s : State) : State := ((longAct s).setCnt 0).setFsm .relwait

/-- A TICK in HOLD (R163, R164). -/
def tickHold (p : Bool) (s : State) : State :=
  let s' := holdCount p s
  if !p || overLong s' then (if overLong s' then longPress s' else shortPress s') else s'

/-- A TICK in RELWAIT (R165). -/
def tickRelwait (p : Bool) (s : State) : State := if p then s else anim (s.setFsm .idle)

/-- One cycle with the pressed predicate p (R161). -/
def tickCycle (p : Bool) (s : State) : State :=
  match s.fsm with
  | .idle => tickIdle p s
  | .hold => tickHold p s
  | .relwait => tickRelwait p s

/-- TICK L (R161). -/
def execTick (l : ButtonLevel) (s : State) : Out := withConfig s (tickCycle (pressed l) s)

end Sys2Proof.Machine
end

