-- ==== Sys2Proof/Machine/Dispatch.lean ====
section
/-! DEFINITION. The dispatch: one arm per command of the opcode table. -/

namespace Sys2Proof.Machine

def exec (i : Instr) (s : State) : Host.Outcome State Fault Refusal :=
  match i with
  | .tick l => Sys2Proof.Machine.execTick l s
  | .setc k => Sys2Proof.Machine.execSetc k s
  | .setb k => Sys2Proof.Machine.execSetb k s

end Sys2Proof.Machine
end

