-- ==== Sys2Proof/Decode.lean ====
section
/-! DEFINITION. The 16-bit command word (R70 to R76): its fields, a decoder that is total on every word of either port and
rejects by name, the encoder, and the opcode table's match and mask. -/

namespace Sys2Proof

/-- `op = w[15:12]` (R70). -/
def opField (w : Word) : BitVec 4 := w.extractLsb' 12 4

/-- `rsv = w[11:8]`, reserved, must be 0 (R70). -/
def rsvField (w : Word) : BitVec 4 := w.extractLsb' 8 4

/-- `arg = w[7:0]` (R70): the plan index of SETC and SETB (R73). -/
def argField (w : Word) : Byte := w.extractLsb' 0 8

/-- `w[0]`: the raw button level of a TICK (R72). -/
def levelField (w : Word) : ButtonLevel := w.extractLsb' 0 1

/-- `w[7:1]`: the bits of a TICK that must be 0 (R71, R75 (c)). -/
def tickRestField (w : Word) : BitVec 7 := w.extractLsb' 1 7

/-- The operation code of TICK (R74). -/
def opTick : BitVec 4 := 0x1

/-- The operation code of SETC (R74). -/
def opSetc : BitVec 4 := 0x2

/-- The operation code of SETB (R74). -/
def opSetb : BitVec 4 := 0x3

/-- Why a word is ignored: the five cases of R75. A word that falls under several is ignored all the same, and the name is
that of the first in the order op, rsv, argument, port. -/
inductive IgnoreReason where
  /-- R75 (a): `op` is reserved. -/
  | reservedOp
  /-- R75 (b): `rsv != 0`. -/
  | reservedField
  /-- R75 (c): `op = TICK` and `w[7:1] != 0`. -/
  | tickArgument
  /-- R75 (d): a TICK word arrives on host_port. -/
  | tickOnHostPort
  /-- R75 (e): a SETC or SETB word arrives on tick_port. -/
  | hostCommandOnTickPort
deriving DecidableEq, Repr

/-- The command of a word whatever its port, or the reason (a), (b) or (c) of R75 for which it is ignored. -/
def decodeWord (w : Word) : Except IgnoreReason Instr :=
  if opField w = opTick then
    if rsvField w ≠ 0 then .error .reservedField
    else if tickRestField w ≠ 0 then .error .tickArgument
    else .ok (.tick (levelField w))
  else if opField w = opSetc then
    if rsvField w ≠ 0 then .error .reservedField else .ok (.setc (argField w))
  else if opField w = opSetb then
    if rsvField w ≠ 0 then .error .reservedField else .ok (.setb (argField w))
  else .error .reservedOp

/-- The reason of a command that stands on the wrong port: (d) or (e) of R75. -/
def wrongPort : Instr → IgnoreReason
  | .tick _ => .tickOnHostPort
  | .setc _ => .hostCommandOnTickPort
  | .setb _ => .hostCommandOnTickPort

/-- The decoder of a port (R71, R74, R75): the command of the word, or the reason for which the word is ignored. -/
def decode (p : Port) (w : Word) : Except IgnoreReason Instr :=
  match decodeWord w with
  | .error e => .error e
  | .ok i => if i.wellFormedOn p then .ok i else .error (wrongPort i)

/-- The word of a command (R71): `0001 0000 0000 000L`, `0010 0000 iiii iiii`, `0011 0000 iiii iiii`. -/
def encode : Instr → Word
  | .tick l => (0x1000 : Word) ||| l.setWidth 16
  | .setc i => (0x2000 : Word) ||| i.setWidth 16
  | .setb i => (0x3000 : Word) ||| i.setWidth 16

/-- A row of the opcode table (R71): the port, the fixed bits' value and the fixed bits' mask. -/
structure OpcodeRow where
  port : Port
  pattern : Word
  mask : Word
deriving DecidableEq, Repr

/-- The row of TICK. -/
def rowTick : OpcodeRow := ⟨.tickPort, 0x1000, 0xFFFE⟩

/-- The row of SETC. -/
def rowSetc : OpcodeRow := ⟨.hostPort, 0x2000, 0xFF00⟩

/-- The row of SETB. -/
def rowSetb : OpcodeRow := ⟨.hostPort, 0x3000, 0xFF00⟩

/-- The opcode table (R71). -/
def opcodeTable : List OpcodeRow := [rowTick, rowSetc, rowSetb]

/-- A row matches a word when `(w & mask) = match` (R71). -/
def OpcodeRow.fits (r : OpcodeRow) (w : Word) : Bool := w &&& r.mask == r.pattern

/-- The port on which a word of the opcode table is presented: tick_port for op 0x1, host_port for any other. -/
def portOf (w : Word) : Port := if opField w = opTick then .tickPort else .hostPort

/-- The word whose `nbits` low bits are `w` and whose other bits are 0; a command word is delivered whole, with bit 15 the
most significant (R52). -/
def tableWord (nbits w : Nat) : Word := BitVec.ofNat 16 (w % 2 ^ nbits)

/-- The command the decoder reads from a word numbered as spec/opcode_table.json numbers it, on the port that the table
gives the word's operation. -/
def decodeTableWord (nbits w : Nat) : Option Instr :=
  match decode (portOf (tableWord nbits w)) (tableWord nbits w) with
  | .ok i => some i
  | .error _ => none

end Sys2Proof
end

