-- ==== Sys2Proof/Machine/Ports.lean ====
section
/-! DEFINITION. The command ports and the reset input (R38, R70, R75, R78, R220): which operation comes next, and what taking
it does to the words at the ports. -/

namespace Sys2Proof.Machine

/-- Reset (R220): every state register takes its reset value (R39). It emits no event, takes no word from a port and does
not affect the configuration or its tables. -/
def doReset (s : State) : State :=
  { s with
    phase := s.cfg.phaseInit, cnt := 0, fsm := .idle, cidx := s.cfg.cidxInit, bidx := s.cfg.bidxInit, sidx := 0, slot := [],
    cur := Tuple.zero }

/-- What a step does (R10): the operation that the next turn brings, with the state it starts from or leaves. -/
inductive Operation where
  /-- No turn is left, or the port whose turn it is holds no word: nothing happens (R210). -/
  | rest (s : State)
  /-- The reset input is asserted (R220). -/
  | reset (s : State)
  /-- The word is ignored: it is taken from its port and has no effect (R10 (b), R75). -/
  | ignored (why : IgnoreReason) (s : State)
  /-- The command is not accepted now: its word stays pending on host_port and has no effect (R10 (c), R78). -/
  | stalled (i : Instr) (s : State)
  /-- The command is accepted: its word is taken from its port and the command is executed (R10 (a), R78). -/
  | accepted (i : Instr) (s : State)
deriving DecidableEq, Repr

/-- A turn of tick_port, which accepts every word at once (R78). -/
def tickPortTurn (s : State) : Operation :=
  match s.tickWords with
  | [] => .rest s
  | w :: ws =>
    match decode .tickPort w with
    | .error e => .ignored e (s.setTickWords ws)
    | .ok i => .accepted i (s.setTickWords ws)

/-- A turn of host_port, which accepts an ignored word at once and a SETC or SETB word only when `cmd_ready = 1` (R78). -/
def hostPortTurn (s : State) : Operation :=
  match s.hostWords with
  | [] => .rest s
  | w :: ws =>
    match decode .hostPort w with
    | .error e => .ignored e (s.setHostWords ws)
    | .ok i => if s.cmdReady then .accepted i (s.setHostWords ws) else .stalled i s

/-- The next operation: the one of the first turn, which is used up. The order of the turns is the order of acceptance, and
every interleaving of the two ports (R58) is a list of turns. -/
def nextOperation (s : State) : Operation :=
  match s.turns with
  | [] => .rest s
  | .reset :: ts => .reset (s.setTurns ts)
  | .port .tickPort :: ts => tickPortTurn (s.setTurns ts)
  | .port .hostPort :: ts => hostPortTurn (s.setTurns ts)

/-- A word is presented at a port as the first there, and the port has the next turn. -/
def presentWord (p : Port) (w : Word) (s : State) : State :=
  match p with
  | .tickPort => (s.setTickWords (w :: s.tickWords)).setTurns (.port .tickPort :: s.turns)
  | .hostPort => (s.setHostWords (w :: s.hostWords)).setTurns (.port .hostPort :: s.turns)

end Sys2Proof.Machine
end

