-- ==== Sys2Proof/Machine/Step.lean ====
section
/-! DEFINITION. One step of the block: the next operation in the order of acceptance, executed atomically (R55, R57). -/

namespace Sys2Proof.Machine

/-- One step. Under a configuration that is not admitted it is refused, whatever the operation (R7); an accepted command
refuses by itself. -/
def step (s : State) : Host.Outcome State Fault Refusal :=
  match nextOperation s with
  | .rest t => withConfig t t
  | .reset t => withConfig t (doReset t)
  | .ignored _ t => withConfig t t
  | .stalled _ t => withConfig t t
  | .accepted i t => exec i t

/-- `s` with the word of the opcode table presented at the port that carries its operation, and that port's turn next. The
block fetches no instructions (R21): this stands for the arrival of the word (log entry 2). -/
def State.withFetchWord (s : State) (nbits w : Nat) : State :=
  presentWord (portOf (tableWord nbits w)) (tableWord nbits w) s

end Sys2Proof.Machine
end

