-- ==== Sys2Proof/Machine/Assembler.lean ====
section
/-! DEFINITION. The assembler syntax of R79: its lines, the words each stands for, and the reader of one line of text. -/

namespace Sys2Proof.Machine

/-- A line of the syntax (R79). -/
inductive AsmLine where
  /-- `TICK L` -/
  | tick (l : ButtonLevel)
  /-- `TICK.P` -/
  | tickP
  /-- `TICK.R` -/
  | tickR
  /-- `SETC i` -/
  | setc (i : Byte)
  /-- `SETB i` -/
  | setb (i : Byte)
  /-- `.WORD w` -/
  | word (w : Word)
  /-- `HOLD n` -/
  | hold (n : Nat)
  /-- `IDLE n` -/
  | idle (n : Nat)
  /-- `TAP n` -/
  | tap (n : Nat)
  /-- `SHORTPRESS` -/
  | shortPress
  /-- `LONGPRESS` -/
  | longPress
deriving DecidableEq, Repr

/-- `TICK.P`: one cycle, button pressed (R79). -/
def tickPressed : Word := encode (.tick 0)

/-- `TICK.R`: one cycle, button released (R79). -/
def tickReleased : Word := encode (.tick 1)

/-- The words of a press of n samples and its release (R79). -/
def pressWords (n : Nat) : List Word := List.replicate n tickPressed ++ [tickReleased]

/-- The words of a line (R79); `TAP n` is a line only for `1 <= n <= SHORT_TH`. -/
def asmWords (c : Config) : AsmLine → Option (List Word)
  | .tick l => some [encode (.tick l)]
  | .tickP => some [tickPressed]
  | .tickR => some [tickReleased]
  | .setc i => some [encode (.setc i)]
  | .setb i => some [encode (.setb i)]
  | .word w => some [w]
  | .hold n => some (List.replicate n tickPressed)
  | .idle n => some (List.replicate n tickReleased)
  | .tap n => if 1 ≤ n ∧ n ≤ c.shortTh then some (pressWords n) else none
  | .shortPress => some (pressWords (c.shortTh + 1))
  | .longPress => some (pressWords (c.longTh + 1))

/-- The value of a decimal digit, or of a hexadecimal digit of either case when the base is 16. -/
def digitValue (base : Nat) (ch : Char) : Option Nat :=
  let n := ch.toNat
  if 48 ≤ n ∧ n ≤ 57 then some (n - 48)
  else if base = 16 ∧ 65 ≤ n ∧ n ≤ 70 then some (n - 55)
  else if base = 16 ∧ 97 ≤ n ∧ n ≤ 102 then some (n - 87)
  else none

/-- The number that the digits write after the value `acc`. -/
def readDigits (base : Nat) : Nat → List Char → Option Nat
  | acc, [] => some acc
  | acc, ch :: cs =>
    match digitValue base ch with
    | none => none
    | some d => readDigits base (acc * base + d) cs

/-- A number, decimal or 0x-hexadecimal (R79), below `bound`. -/
def readNumber (bound : Nat) (cs : List Char) : Option Nat :=
  let value : Option Nat :=
    match cs with
    | [] => none
    | '0' :: 'x' :: [] => none
    | '0' :: 'x' :: ds => readDigits 16 0 ds
    | ds => readDigits 10 0 ds
  value.bind fun n => if n < bound then some n else none

/-- The line without its comment (R79: `;` starts a comment). -/
def dropComment : List Char → List Char
  | [] => []
  | ';' :: _ => []
  | ch :: cs => ch :: dropComment cs

/-- The words of the text that spaces and tabs part; `word` is the word read so far. -/
def tokensFrom : List Char → List Char → List (List Char)
  | word, [] => if word = [] then [] else [word]
  | word, ch :: cs =>
    if ch = ' ' ∨ ch = '\t' then (if word = [] then tokensFrom [] cs else word :: tokensFrom [] cs)
    else tokensFrom (word ++ [ch]) cs

/-- A line of text (R79): mnemonics are upper case, `;` starts a comment. A line of no mnemonic, an unknown mnemonic or an
operand out of its range reads as `none`. -/
def readLine (text : List Char) : Option AsmLine :=
  match tokensFrom [] (dropComment text) with
  | [m] =>
    if m = ['T', 'I', 'C', 'K', '.', 'P'] then some .tickP
    else if m = ['T', 'I', 'C', 'K', '.', 'R'] then some .tickR
    else if m = ['S', 'H', 'O', 'R', 'T', 'P', 'R', 'E', 'S', 'S'] then some .shortPress
    else if m = ['L', 'O', 'N', 'G', 'P', 'R', 'E', 'S', 'S'] then some .longPress
    else none
  | [m, a] =>
    if m = ['T', 'I', 'C', 'K'] then (readNumber 2 a).map fun n => .tick (BitVec.ofNat 1 n)
    else if m = ['S', 'E', 'T', 'C'] then (readNumber 256 a).map fun n => .setc (BitVec.ofNat 8 n)
    else if m = ['S', 'E', 'T', 'B'] then (readNumber 256 a).map fun n => .setb (BitVec.ofNat 8 n)
    else if m = ['.', 'W', 'O', 'R', 'D'] then (readNumber 65536 a).map fun n => .word (BitVec.ofNat 16 n)
    else if m = ['H', 'O', 'L', 'D'] then (readDigits 10 0 a).map .hold
    else if m = ['I', 'D', 'L', 'E'] then (readDigits 10 0 a).map .idle
    else if m = ['T', 'A', 'P'] then (readDigits 10 0 a).map .tap
    else none
  | _ => none

end Sys2Proof.Machine
end

