-- ==== Sys2Proof/Machine/Environment.lean ====
section
/-! DEFINITION. The block's side of its collaborators (R207): what a Frame event stands for at the Render Sink (R36), and when
the tick source outside the block issues a TICK word (R232). No operation of the block depends on anything of this file: the
block has no time (R206). -/

namespace Sys2Proof.Machine

/-- A call of the Render Sink (R36). -/
inductive SinkCall where
  /-- `beginFrame()` -/
  | beginFrame
  /-- `sendColor(r, g, b, br)`, for the next strip position. -/
  | sendColor (q : Tuple)
  /-- `endFrame(n)` -/
  | endFrame (n : Nat)
deriving DecidableEq, Repr

/-- The sink calls of an event (R36): a frame sends the same tuple to each of the `LED_COUNT` positions; a report is no
output to the sink. -/
def sinkCalls (c : Config) : Event → List SinkCall
  | .frame q => .beginFrame :: (List.replicate c.ledCount (.sendColor q) ++ [.endFrame c.ledCount])
  | .report _ _ => []

/-- The tick source's only memory: the millisecond clock at the last TICK of the main loop's gate (R232). -/
structure TickSource where
  last : Nat
deriving DecidableEq, Repr

/-- The gate of the main loop: `(now - last) mod 2^MS_WIDTH >= PERIOD_MS` (R232). -/
def gateOpen (c : Config) (src : TickSource) (now : Nat) : Bool :=
  decide (c.periodMs ≤ (now + 2 ^ c.msWidth - src.last % 2 ^ c.msWidth) % 2 ^ c.msWidth)

/-- One poll of the tick source at clock `now`, for the state `fsm` of the block: in IDLE the gate decides, and a TICK sets
`last`; in HOLD and RELWAIT each sleep quantum ends in one TICK (R232). `true` means that a TICK word is issued. -/
def pollTickSource (c : Config) (src : TickSource) (fsm : Fsm) (now : Nat) : Bool × TickSource :=
  match fsm with
  | .idle => if gateOpen c src now then (true, ⟨now⟩) else (false, src)
  | .hold => (true, src)
  | .relwait => (true, src)

end Sys2Proof.Machine
end

