-- ==== Sys2Proof/Safety.lean ====
section
/-! DEFINITION. The terms in which claims about the block are stated: the invariant of R40, the states in which every
access is in range, runs of accepted operations and their observation (R234), and the values that the source's formulas
give, written as arithmetic on numbers and apart from the model's own pipeline. -/

namespace Sys2Proof.Machine

/-- R40 (a), (b), (c): the three indices are in range. -/
abbrev State.indicesInRange (s : State) : Prop :=
  s.cidx.toNat < s.cfg.nColor ∧ s.bidx.toNat < s.cfg.nBright ∧
    (1 ≤ s.cfg.nSlots.val → s.sidx.toNat < s.cfg.nSlots.val)

/-- R40 (d), (e), (f) and R23: the counter that each state of the mode machine allows, and its ceiling. -/
abbrev State.counterOk (s : State) : Prop :=
  (s.fsm = .idle → s.cnt.toNat ≤ s.cfg.shortTh) ∧
    (s.fsm = .hold → s.cfg.shortTh < s.cnt.toNat ∧ s.cnt.toNat ≤ s.cfg.longTh) ∧
    (s.fsm = .relwait → s.cnt = 0) ∧ s.cnt.toNat ≤ s.cfg.cntMax.toNat

/-- The slot memory is in its canonical form and holds nothing beyond the `N_SLOTS` slots (R32, log entry 3). -/
abbrev State.memoryOk (s : State) : Prop := s.slot.wf = true ∧ s.slot.below (4 * s.cfg.nSlots.val) = true

/-- The invariant: an admitted configuration (R7, log entry 6), R40 (a) to (f), the canonical slot memory, and a fourth phase
that no one writes when `NCH = 3` (log entry 4). -/
abbrev State.Inv (s : State) : Prop :=
  s.cfg.admitted = true ∧ s.indicesInRange ∧ s.counterOk ∧ s.memoryOk ∧
    (s.cfg.nch = 3 → s.phase.br = s.cfg.phaseInit.br)

/-- The states in which every access of every operation is in range (R53): the configuration is admitted and so are the
indices. -/
abbrev State.ready (s : State) : Prop := s.cfg.admitted = true ∧ s.indicesInRange

/-- The sample with which a press becomes a long press: pressed, in HOLD, and the counter passes `LONG_TH` (R164). -/
abbrev State.longPressDue (s : State) (l : ButtonLevel) : Prop :=
  s.fsm = .hold ∧ l = 0 ∧ s.cfg.longTh < (satInc s.cfg s.cnt).toNat

/-- An accepted operation (R10, R234): a command or a reset. -/
inductive Accepted where
  | command (i : Instr)
  | reset
deriving DecidableEq, Repr

/-- `o`, and then `k` from the state it answers; a fault or a refusal of `o` stands. -/
def andThen (o : Out) (k : State → Out) : Out :=
  match o with
  | .next s => k s
  | .fault f => .fault f
  | .refused r => .refused r

/-- One accepted operation. -/
def runOne : Accepted → State → Out
  | .command i, s => exec i s
  | .reset, s => withConfig s (doReset s)

/-- The operations of a run, one after another (R234). With none left the state stays as it is, under any configuration: the
configuration is checked by each operation, and by `observe` for the run as a whole (log entry 17). -/
def runAccepted : List Accepted → State → Out
  | [], s => .next s
  | a :: as, s => andThen (runOne a s) (runAccepted as)

/-- A run of commands. -/
def runCommands : List Instr → State → Out
  | [], s => .next s
  | i :: is, s => andThen (exec i s) (runCommands is)

/-- The observation of a run from reset (R234): the events it emitted, in order, and the final state. -/
structure Observation where
  events : List Event
  final : State
deriving DecidableEq, Repr

/-- The observation of a run from the state after reset in a configuration (R234). R234 says nothing about a configuration
that is not well formed; that there is `none` under any configuration that is not admitted, for the run of no operations
too, is the model's choice (log entry 17, DESIGN CHOICE). -/
def observe (c : Config) (ops : List Accepted) : Option Observation :=
  match andThen (withConfig (State.resetWith c) (State.resetWith c)) (runAccepted ops) with
  | .next t => some ⟨t.trace, t⟩
  | .fault _ => none
  | .refused _ => none

/-- A press of n pressed samples and its release (R168). -/
def pressCommands (n : Nat) : List Instr := List.replicate n (.tick 0) ++ [.tick 1]

/-- The sine sample of a phase by the source's formula `sineTable[(phase >> 8) & 0x7F]` (R101), on numbers. -/
def sinePoint (c : Config) (p : Word) : Byte := c.sineLut[Fin.ofNat 128 (p.toNat / 256)]

/-- The gamma table at a byte (R103), where it is enabled. -/
def gammaPoint (c : Config) (v : Byte) : Byte := if c.gammaEn then c.gammaLut[Fin.ofNat 256 v.toNat] else v

/-- The intensity of a colour channel at a phase (R101, R102, R103, R105), on numbers. -/
def colourPoint (c : Config) (p : Word) : Byte :=
  gammaPoint c
    (if c.floorEn then BitVec.ofNat 8 (((sinePoint c p).toNat + c.floorVal.toNat) % 256) else sinePoint c p)

/-- The brightness of a Cycling or Fixed frame (R104) at a brightness index and a phase of the fourth channel. -/
def brightPoint (c : Config) (bidx : Byte) (p : Word) : Byte :=
  match c.brightSrc with
  | .level => c.level.getD bidx.toNat 0 &&& c.brightMask
  | .phase => BitVec.ofNat 8 ((sinePoint c p).toNat / 2 ^ c.brightShift)

/-- A phase after an advance (R100): `(phase + inc) mod 65536`. -/
def phasePoint (p : Word) (inc : Byte) : Word := BitVec.ofNat 16 ((p.toNat + inc.toNat) % 65536)

end Sys2Proof.Machine
end

