-- ==== Sys2Proof/Certificates/Slice0/Obligations.lean ====
section
/-! DEFINITION. The statements for the provers. Each docstring names the rules of spec/ that it formalises. A statement about
every state is a statement about every configuration, since the configuration is a field of the state. -/

open Sys2Proof Sys2Proof.Machine

/-! ## Encoding, ports and acceptance -/

/-- R70, R71, R76: on each port the decoder reads exactly the words that the encoder gives for the commands of that port, with
every operand at every value. -/
def Obligations.DecodeReadsExactlyTheEncodings : Prop :=
  ∀ (p : Port) (w : Word) (i : Instr), decode p w = .ok i ↔ i.port = p ∧ w = encode i

/-- R71 with the operand fields of R72 and R73: a word that matches a row by `(w & mask) = match` is that row's command with
the row's operand bits, and no other word of the port is a command. -/
def Obligations.DecoderFollowsMatchAndMask : Prop :=
  ∀ w : Word,
    (w &&& 0xFFFE = 0x1000 → decode .tickPort w = .ok (.tick (w.extractLsb' 0 1))) ∧
    (w &&& 0xFF00 = 0x2000 → decode .hostPort w = .ok (.setc (w.extractLsb' 0 8))) ∧
    (w &&& 0xFF00 = 0x3000 → decode .hostPort w = .ok (.setb (w.extractLsb' 0 8))) ∧
    (∀ i, decode .tickPort w = .ok i → w &&& 0xFFFE = 0x1000) ∧
    (∀ i, decode .hostPort w = .ok i → w &&& 0xFF00 = 0x2000 ∨ w &&& 0xFF00 = 0x3000)

/-- Words of the table of 95_test_vectors.md section 2.1 decode as it says. -/
def Obligations.SampleWordsDecode : Prop :=
  decode .tickPort 0x1000 = .ok (.tick 0) ∧ decode .tickPort 0x1001 = .ok (.tick 1) ∧
  decode .hostPort 0x2004 = .ok (.setc 4) ∧ decode .hostPort 0x2063 = .ok (.setc 99) ∧
  decode .hostPort 0x20FF = .ok (.setc 255) ∧ decode .hostPort 0x3002 = .ok (.setb 2) ∧
  decode .tickPort 0x1002 = .error .tickArgument ∧ decode .tickPort 0x1100 = .error .reservedField ∧
  decode .tickPort 0x2001 = .error .hostCommandOnTickPort ∧ decode .hostPort 0x1001 = .error .tickOnHostPort ∧
  decode .hostPort 0xF0FF = .error .reservedOp

/-- R75: a word is ignored exactly in the cases (a) to (e), and an ignored word is taken from its port, whatever the state of
the mode machine, with no other effect: no register changes and no event is emitted. -/
def Obligations.IgnoredWordsHaveNoEffect : Prop :=
  (∀ (p : Port) (w : Word), (∃ e, decode p w = .error e) ↔
    ((w.extractLsb' 12 4 ≠ 1 ∧ w.extractLsb' 12 4 ≠ 2 ∧ w.extractLsb' 12 4 ≠ 3) ∨
      w.extractLsb' 8 4 ≠ 0 ∨
      (w.extractLsb' 12 4 = 1 ∧ w.extractLsb' 1 7 ≠ 0) ∨
      (p = .hostPort ∧ w.extractLsb' 12 4 = 1) ∨
      (p = .tickPort ∧ (w.extractLsb' 12 4 = 2 ∨ w.extractLsb' 12 4 = 3)))) ∧
  ∀ (s : State) (ts : List Turn) (w : Word) (ws : List Word) (e : IgnoreReason), s.cfg.admitted = true →
    (s.turns = .port .tickPort :: ts → s.tickWords = w :: ws → decode .tickPort w = .error e →
      step s = .next { s with turns := ts, tickWords := ws }) ∧
    (s.turns = .port .hostPort :: ts → s.hostWords = w :: ws → decode .hostPort w = .error e →
      step s = .next { s with turns := ts, hostWords := ws })

/-- A step runs the decoded command: when the turn is a port's and the word there decodes, the step is the meaning of that
command at the state with the word and the turn taken; on host_port this is so in IDLE (R78). -/
def Obligations.StepRunsTheDecodedCommand : Prop :=
  ∀ (s : State) (ts : List Turn) (w : Word) (ws : List Word) (i : Instr),
    (s.turns = .port .tickPort :: ts → s.tickWords = w :: ws → decode .tickPort w = .ok i →
      step s = exec i { s with turns := ts, tickWords := ws }) ∧
    (s.turns = .port .hostPort :: ts → s.hostWords = w :: ws → decode .hostPort w = .ok i → s.fsm = .idle →
      step s = exec i { s with turns := ts, hostWords := ws })

/-- A word presented at its port with the next turn is the command that the next step runs (the host's way in; log entry 2). -/
def Obligations.PresentedWordRunsNext : Prop :=
  ∀ (s : State) (w : Word) (i : Instr), decode i.port w = .ok i → (i.port = .hostPort → s.fsm = .idle) →
    decodeTableWord 16 w.toNat = some i ∧ step (s.withFetchWord 16 w.toNat) = exec i s

/-- R78: tick_port takes every word at once; host_port takes an ignored word at once and a command only when `fsm = IDLE`,
and otherwise the word stays pending without effect; a stalled command does not block tick_port; and only a TICK, or reset,
brings `fsm` back to IDLE. That a stalled command's turn is a step, which uses up the turn and does nothing else, is the model's
form: the pending command itself has no step until IDLE (log entry 5). -/
def Obligations.HostCommandWaitsForIdle : Prop :=
  ∀ (s : State) (ts : List Turn) (w : Word) (ws : List Word), s.Inv →
    (s.turns = .port .tickPort :: ts → s.tickWords = w :: ws →
      ∃ t, step s = .next t ∧ t.tickWords = ws ∧ t.hostWords = s.hostWords ∧ t.turns = ts) ∧
    (s.turns = .port .hostPort :: ts → s.hostWords = w :: ws → ∀ e, decode .hostPort w = .error e →
      step s = .next { s with turns := ts, hostWords := ws }) ∧
    (s.turns = .port .hostPort :: ts → s.hostWords = w :: ws → ∀ i, decode .hostPort w = .ok i →
      (s.fsm = .idle → ∃ t, step s = .next t ∧ t.hostWords = ws) ∧
      (s.fsm ≠ .idle → step s = .next { s with turns := ts })) ∧
    (∀ t, step s = .next t → s.fsm ≠ .idle → t.fsm = .idle →
      ∃ us, s.turns = .port .tickPort :: us ∨ s.turns = .reset :: us)

/-- R79: HOLD, IDLE, TAP, SHORTPRESS and LONGPRESS expand to TICK words only, with the counts of the configured thresholds,
and TAP n is a line exactly for `1 <= n <= SHORT_TH`. -/
def Obligations.PseudoInstructionsExpandToTicks : Prop :=
  ∀ (c : Config) (n : Nat),
    asmWords c (.hold n) = some (List.replicate n 0x1000) ∧
    asmWords c (.idle n) = some (List.replicate n 0x1001) ∧
    (asmWords c (.tap n) = if 1 ≤ n ∧ n ≤ c.shortTh then some (List.replicate n 0x1000 ++ [0x1001]) else none) ∧
    asmWords c .shortPress = some (List.replicate (c.shortTh + 1) 0x1000 ++ [0x1001]) ∧
    asmWords c .longPress = some (List.replicate (c.longTh + 1) 0x1000 ++ [0x1001]) ∧
    ∀ line ws, line ∈ [AsmLine.hold n, .idle n, .tap n, .shortPress, .longPress] → asmWords c line = some ws →
      ∀ w ∈ ws, ∃ l, decode .tickPort w = .ok (.tick l)

/-! ## Configuration and reset -/

/-- R7: the check accepts exactly the configurations that meet (a) to (h), and under any other configuration no step and no
command has a meaning. -/
def Obligations.OnlyWellFormedConfigurationsRun : Prop :=
  (∀ c : Config, c.wellFormed = true ↔
    (c.nch = 3 ∨ c.nch = 4) ∧
    (c.brightSrc = .phase → c.nch = 4) ∧
    (1 ≤ c.plan.length ∧ c.plan.length ≤ 256 ∧ 1 ≤ c.level.length ∧ c.level.length ≤ 256) ∧
    (∀ inc, Plan.cycling inc ∈ c.plan → inc.length = c.nch) ∧
    (∀ k, Plan.custom k ∈ c.plan → k.toNat < c.nSlots.val) ∧
    (c.longAction = .capture → 1 ≤ c.nSlots.val) ∧
    c.shortMs / c.periodMs < c.longMs / c.periodMs ∧
    (∀ u v : Fin 256, u ≤ v → c.gammaLut[u].toNat ≤ c.gammaLut[v].toNat) ∧
    c.gammaLut[0] = 0 ∧ c.gammaLut[255] = 255) ∧
  ∀ s : State, s.cfg.wellFormed = false →
    step s = .refused .configNotWellFormed ∧ ∀ i, exec i s = .refused .configNotWellFormed

/-- R220: asserting reset gives every state register its reset value whatever the state, clears every slot, emits no event,
takes no word, leaves the configuration alone, and a command that waited on host_port is accepted afterwards. -/
def Obligations.ResetInputRestoresResetValues : Prop :=
  ∀ (s : State) (ts : List Turn), s.cfg.admitted = true → s.turns = .reset :: ts →
    ∃ t, step s = .next t ∧
      t.phase = s.cfg.phaseInit ∧ t.cnt = 0 ∧ t.fsm = .idle ∧ t.cidx = s.cfg.cidxInit ∧ t.bidx = s.cfg.bidxInit ∧
      t.sidx = 0 ∧ (∀ a, t.slot.read a = 0) ∧ t.cur = ⟨0, 0, 0, 0⟩ ∧ t.cfg = s.cfg ∧ t.trace = s.trace ∧
      t.tickWords = s.tickWords ∧ t.hostWords = s.hostWords ∧ t.turns = ts ∧
      ∀ us w ws i, ts = .port .hostPort :: us → s.hostWords = w :: ws → decode .hostPort w = .ok i →
        step t = exec i { t with turns := us, hostWords := ws }

/-- R39: the values of the registers in the state right after reset, with `cmd_ready = 1`. -/
def Obligations.RegistersAfterReset : Prop :=
  State.reset.phase = ⟨0, 0, 0, 0⟩ ∧ State.reset.cnt = 0 ∧ State.reset.fsm = .idle ∧ State.reset.cidx = 0 ∧
    State.reset.bidx = 0 ∧ State.reset.sidx = 0 ∧ (∀ a, State.reset.slot.read a = 0) ∧
    State.reset.cur = ⟨0, 0, 0, 0⟩ ∧ State.reset.cmdReady = true

/-- The state after reset meets the invariant: the host's reset state does, and so does that of every admitted configuration;
and every well-formed configuration with the initial indices of R6, which are 0, is admitted (log entry 6). -/
def Obligations.ResetStateMeetsTheInvariant : Prop :=
  State.reset.Inv ∧
    (∀ c : Config, c.admitted = true → (State.resetWith c).Inv) ∧
    ∀ c : Config, c.wellFormed = true → c.cidxInit = 0 → c.bidxInit = 0 → c.admitted = true

/-- R223's last sentences: the first TICK after reset runs in IDLE with a counter of at most 1, so it animates whatever the
button. The premise `1 <= SHORT_TH` is needed: R7 allows `SHORT_TH = 0`, where a pressed first sample enters HOLD
(log entry 9). -/
def Obligations.FirstTickAfterResetAnimates : Prop :=
  ∀ (c : Config) (l : ButtonLevel), c.admitted = true → 1 ≤ c.shortTh →
    ∃ t q, exec (.tick l) (State.resetWith c) = .next t ∧ t.trace = [.frame q] ∧ t.cur = q ∧ t.fsm = .idle ∧
      t.cnt.toNat ≤ 1

/-- R6, R169: the thresholds are the quotients, 5 and 25 with the source's 200 ms, 1000 ms and 5000 ms. -/
def Obligations.ThresholdsAreQuotients : Prop :=
  ∀ c : Config, c.shortTh = c.shortMs / c.periodMs ∧ c.longTh = c.longMs / c.periodMs ∧
    (c.periodMs = 200 → c.shortMs = 1000 → c.longMs = 5000 → c.shortTh = 5 ∧ c.longTh = 25)

/-! ## Whole-machine rules -/

/-- R40: every step keeps the invariant, of which (a) to (f) are part. -/
def Obligations.StepKeepsTheInvariant : Prop :=
  ∀ s t : State, s.Inv → step s = .next t → t.Inv

/-- R200, R10: under an admitted configuration every step answers a next state, from every state; and under any configuration
neither a step nor a command ends in a fault, so that next and refused are the only outcomes. -/
def Obligations.NoOperationFails : Prop :=
  ∀ s : State,
    (s.cfg.admitted = true → ∃ t, step s = .next t) ∧
    (∀ f, step s ≠ .fault f) ∧ ∀ i f, exec i s ≠ .fault f

/-- The meaning of every command answers a next state, whatever the operand, in every state with an admitted configuration, and
leaves the configuration with its tables, and the words and turns at the ports, as they were. For SETC and SETB outside IDLE,
where R78 stalls the command, that next state is the model's choice of log entry 14. -/
def Obligations.EveryCommandCompletes : Prop :=
  ∀ (i : Instr) (s : State), s.cfg.admitted = true →
    ∃ t, exec i s = .next t ∧ t.cfg = s.cfg ∧ t.tickWords = s.tickWords ∧ t.hostWords = s.hostWords ∧ t.turns = s.turns

/-- R55, R57, R61: a step is at most one accepted operation, run whole; apart from that it only takes words and turns. It
never writes the configuration with its tables, and it only appends to the event trace. -/
def Obligations.StepIsAtMostOneOperation : Prop :=
  ∀ s t : State, step s = .next t →
    t.cfg = s.cfg ∧ (∃ evs, t.trace = s.trace ++ evs) ∧
    ∃ ops : List Accepted, ops.length ≤ 1 ∧
      runAccepted ops { s with tickWords := t.tickWords, hostWords := t.hostWords, turns := t.turns } = .next t

/-- R210: with no turn left nothing changes. -/
def Obligations.NothingChangesWithoutACommand : Prop :=
  ∀ s : State, s.cfg.admitted = true → s.turns = [] → step s = .next s

/-- R37: a command appends to the trace, and a Report among what it appends comes from a TICK that leaves HOLD: Report(COLOR)
with the advanced colour-plan index, or Report(BRIGHT) with the advanced brightness-plan index. -/
def Obligations.ReportsComeFromAdvancesOnly : Prop :=
  ∀ (i : Instr) (s t : State), exec i s = .next t →
    ∃ evs, t.trace = s.trace ++ evs ∧
      ∀ k j, Event.report k j ∈ evs →
        (∃ l, i = .tick l) ∧ s.fsm = .hold ∧ t.fsm ≠ .hold ∧
        (k = .color → j = t.cidx ∧ t.cidx = wrapInc s.cidx s.cfg.nColor) ∧
        (k = .bright → j = t.bidx ∧ t.bidx = wrapInc s.bidx s.cfg.nBright)

/-- R221: a step writes the phases only by an advance with the increments of a Cycling plan, or by reset; and the slots are
cleared by reset. The premise, that the indices are in range, is part of the invariant. -/
def Obligations.OnlyAdvanceAndResetWritePhases : Prop :=
  ∀ s t : State, s.indicesInRange → step s = .next t →
    (t.phase = s.phase ∨
      (∃ inc, Plan.cycling inc ∈ s.cfg.plan ∧ t.phase = advancePhases s.cfg.nch inc s.phase) ∨
      (∃ ts, s.turns = .reset :: ts ∧ t.phase = s.cfg.phaseInit)) ∧
    (∀ ts, s.turns = .reset :: ts → ∀ a, t.slot.read a = 0)

/-- A part of R33: after a command `cur` is as before, or it is the tuple of the last event that the command appended, a frame.
Which frames write `cur` and which do not is not said here: RenderWritesCurAndBlankDoesNot, AnimRendersTheActivePlan,
CaptureStoresCurAndFlashes and TickFollowsTheTransitionTable say it. -/
def Obligations.CurStaysOrIsTheLastFrame : Prop :=
  ∀ (i : Instr) (s t : State), exec i s = .next t →
    t.cur = s.cur ∨ ∃ evs, t.trace = s.trace ++ evs ++ [.frame t.cur]

/-! ## Phase accumulators, tables and the animation step -/

/-- R100: PHASE_ADVANCE adds each of the `NCH` increments modulo 65536 and writes nothing else. -/
def Obligations.PhaseAdvanceWrapsModulo65536 : Prop :=
  ∀ (inc : List Byte) (s : State), s.cfg.nch = 3 ∨ s.cfg.nch = 4 →
    phaseAdvance inc s = { s with phase := (phaseAdvance inc s).phase } ∧
    ∀ c : Channel,
      (c.index < s.cfg.nch → (phaseOf (phaseAdvance inc s).phase c).toNat =
        ((phaseOf s.phase c).toNat + (inc.getD c.index 0).toNat) % 65536) ∧
      (¬ c.index < s.cfg.nch → phaseOf (phaseAdvance inc s).phase c = phaseOf s.phase c)

/-- R111: advances commute and compose; repeating an advance by n returns to the start exactly after the multiples of
`65536 / gcd(n, 65536)`; and the sine index has period 0x8000. -/
def Obligations.PhaseLaneLaws : Prop :=
  (∀ (nch : Nat) (a b : List Byte) (p : Phases),
    advancePhases nch a (advancePhases nch b p) = advancePhases nch b (advancePhases nch a p)) ∧
  (∀ (nch : Nat) (a b : List Byte) (c : Channel) (p : Word), c.index < nch →
    (advanceLane nch b c (advanceLane nch a c p)).toNat = (p.toNat + (incOf a c).toNat + (incOf b c).toNat) % 65536) ∧
  (∀ (nch : Nat) (inc : List Byte) (c : Channel) (p : Word) (k : Nat), c.index < nch →
    ((advanceLane nch inc c)^[k] p = p ↔ 65536 / Nat.gcd (incOf inc c).toNat 65536 ∣ k)) ∧
  (∀ (cfg : Config) (p : Word) (k : Int),
    sineAt cfg (sineIndex (BitVec.ofInt 16 (p.toNat + 0x8000 * k))) = sineAt cfg (sineIndex p))

/-- R101: the sine sample is the table at `(phase >> 8) & 0x7F`; bit 15 and bits 7:0 of the phase are ignored. -/
def Obligations.SineSampleReadsBits14To8 : Prop :=
  ∀ (s : State) (c : Channel),
    sineSample s c = s.cfg.sineLut[Fin.ofNat 128 ((phaseOf s.phase c).toNat / 256)] ∧
    ∀ (s' : State) (c' : Channel), s'.cfg = s.cfg →
      (phaseOf s'.phase c').toNat / 256 % 128 = (phaseOf s.phase c).toNat / 256 % 128 →
      sineSample s' c' = sineSample s c

/-- R102: the floor adds `FLOOR_VAL` modulo 256 when it is enabled; with the value 15, 240 gives 255, 241 gives 0 and 250
gives 9. -/
def Obligations.FloorWrapsModulo256 : Prop :=
  ∀ (c : Config) (v : Byte),
    (c.floorEn = true → (floorOf c v).toNat = (v.toNat + c.floorVal.toNat) % 256) ∧
    (c.floorEn = false → floorOf c v = v) ∧
    (c.floorEn = true → c.floorVal = 15 → floorOf c 240 = 255 ∧ floorOf c 241 = 0 ∧ floorOf c 250 = 9)

/-- R30, R103: under a well-formed configuration gamma keeps the order of intensities and the two endpoints, and it is the
table's entry exactly when it is enabled. -/
def Obligations.GammaKeepsOrderAndEndpoints : Prop :=
  ∀ c : Config, c.wellFormed = true →
    (∀ u v : Byte, u.toNat ≤ v.toNat → (gammaOf c u).toNat ≤ (gammaOf c v).toNat) ∧
    gammaOf c 0 = 0 ∧ gammaOf c 255 = 255 ∧
    ∀ v : Byte, gammaOf c v = if c.gammaEn then c.gammaLut[Fin.ofNat 256 v.toNat] else v

/-- R104: the brightness of a Cycling or Fixed frame from either source; with the mask 0x31 the levels 11, 19, 31 and 32 give
1, 17, 17 and 32, with 0x1F the levels 11, 19 and 31 give themselves; from the phase, with the shift 3, it is at most 31. -/
def Obligations.BrightnessFromLevelOrPhase : Prop :=
  ∀ s : State, s.bidx.toNat < s.cfg.nBright →
    brightOf s = brightPoint s.cfg s.bidx s.phase.br ∧
    (s.cfg.brightSrc = .phase → s.cfg.brightShift = 3 → (brightPoint s.cfg s.bidx s.phase.br).toNat ≤ 31) ∧
    (s.cfg.brightSrc = .level → s.cfg.brightMask = 0x31 →
      (s.cfg.level[s.bidx.toNat]? = some 11 → brightOf s = 1) ∧
      (s.cfg.level[s.bidx.toNat]? = some 19 → brightOf s = 17) ∧
      (s.cfg.level[s.bidx.toNat]? = some 31 → brightOf s = 17) ∧
      (s.cfg.level[s.bidx.toNat]? = some 32 → brightOf s = 32)) ∧
    (s.cfg.brightSrc = .level → s.cfg.brightMask = 0x1F →
      (s.cfg.level[s.bidx.toNat]? = some 11 → brightOf s = 11) ∧
      (s.cfg.level[s.bidx.toNat]? = some 19 → brightOf s = 19) ∧
      (s.cfg.level[s.bidx.toNat]? = some 31 → brightOf s = 31))

/-- R108, R110: RENDER emits the frame and remembers the tuple, also an all-zero one; BLANK emits an all-zero frame and
leaves `cur` alone. -/
def Obligations.RenderWritesCurAndBlankDoesNot : Prop :=
  ∀ (s : State) (q : Tuple),
    render q s = { s with trace := s.trace ++ [.frame q], cur := q } ∧
    blank s = { s with trace := s.trace ++ [.frame ⟨0, 0, 0, 0⟩] }

/-- R107 with the formulas of R100 to R106: ANIM advances the phases under a Cycling plan and only there, and renders the
tuple of the active plan; a Custom plan renders its slot's four bytes unchanged. Nothing else changes. -/
def Obligations.AnimRendersTheActivePlan : Prop :=
  ∀ s : State, s.ready →
    (∀ inc, s.cfg.plan[s.cidx.toNat]? = some (.cycling inc) →
      let p : Phases :=
        ⟨phasePoint s.phase.r (inc.getD 0 0), phasePoint s.phase.g (inc.getD 1 0), phasePoint s.phase.b (inc.getD 2 0),
          if s.cfg.nch = 4 then phasePoint s.phase.br (inc.getD 3 0) else s.phase.br⟩
      let q : Tuple :=
        ⟨colourPoint s.cfg p.r, colourPoint s.cfg p.g, colourPoint s.cfg p.b, brightPoint s.cfg s.bidx p.br⟩
      anim s = { s with phase := p, cur := q, trace := s.trace ++ [.frame q] }) ∧
    (∀ r g b, s.cfg.plan[s.cidx.toNat]? = some (.fixed r g b) →
      let q : Tuple :=
        ⟨gammaPoint s.cfg r, gammaPoint s.cfg g, gammaPoint s.cfg b, brightPoint s.cfg s.bidx s.phase.br⟩
      anim s = { s with cur := q, trace := s.trace ++ [.frame q] }) ∧
    (∀ k, s.cfg.plan[s.cidx.toNat]? = some (.custom k) →
      let a := 4 * k.toNat
      let q : Tuple := ⟨s.slot.read a, s.slot.read (a + 1), s.slot.read (a + 2), s.slot.read (a + 3)⟩
      anim s = { s with cur := q, trace := s.trace ++ [.frame q] })

/-- R109: a lane's new phase and colour depend on that lane's own phase and increment and on the configuration alone. -/
def Obligations.LanesAreIndependent : Prop :=
  ∀ (s s' : State) (inc inc' : List Byte) (c : Channel), s'.cfg = s.cfg →
    phaseOf s'.phase c = phaseOf s.phase c → inc'.getD c.index 0 = inc.getD c.index 0 →
    phaseOf (phaseAdvance inc' s').phase c = phaseOf (phaseAdvance inc s).phase c ∧
    sineSample (phaseAdvance inc' s') c = sineSample (phaseAdvance inc s) c ∧
    colour (phaseAdvance inc' s') c = colour (phaseAdvance inc s) c

/-- R36: a frame is one `beginFrame`, the tuple once for each of the `LED_COUNT` positions, and one `endFrame(LED_COUNT)`; it is
the only event that the sink sees; and a blank is the frame of zeros. -/
def Obligations.FrameReachesEveryPosition : Prop :=
  ∀ (c : Config) (s : State) (q : Tuple) (k : ReportKind) (i : Byte),
    sinkCalls c (.frame q) = [.beginFrame] ++ List.replicate c.ledCount (.sendColor q) ++ [.endFrame c.ledCount] ∧
    sinkCalls c (.report k i) = [] ∧
    (blank s).trace = s.trace ++ [.frame ⟨0, 0, 0, 0⟩]

/-! ## The plan selector -/

/-- R130: ADVANCE_COLOR moves to the next index modulo `N_COLOR`, reports it, and writes nothing else. -/
def Obligations.AdvanceColorWrapsAndReports : Prop :=
  ∀ s : State, s.cidx.toNat < s.cfg.nColor → s.cfg.nColor ≤ 256 →
    let j : Byte := BitVec.ofNat 8 ((s.cidx.toNat + 1) % s.cfg.nColor)
    advanceColor s = { s with cidx := j, trace := s.trace ++ [.report .color j] }

/-- R131: ADVANCE_BRIGHT moves to the next index modulo `N_BRIGHT`, reports it, and renders the colour of `cur` at the new
masked level (or at `cur.br` when the brightness comes from the phase); `cur` becomes that tuple and nothing else changes. -/
def Obligations.AdvanceBrightRendersCurAtNewLevel : Prop :=
  ∀ s : State, s.bidx.toNat < s.cfg.nBright → s.cfg.nBright ≤ 256 →
    let j : Byte := BitVec.ofNat 8 ((s.bidx.toNat + 1) % s.cfg.nBright)
    let nb : Byte :=
      match s.cfg.brightSrc with
      | .level => s.cfg.level.getD j.toNat 0 &&& s.cfg.brightMask
      | .phase => s.cur.br
    let q : Tuple := ⟨s.cur.r, s.cur.g, s.cur.b, nb⟩
    advanceBright s = { s with bidx := j, cur := q, trace := s.trace ++ [.report .bright j, .frame q] }

/-- R132: an accepted SETC, which is one in IDLE, writes a valid index and nothing else; with an index beyond the last plan it
changes nothing at all. -/
def Obligations.SetcWritesOnlyAValidIndex : Prop :=
  ∀ (s : State) (i : Byte), s.cfg.admitted = true →
    (s.fsm = .idle → i.toNat ≤ s.cfg.plan.length - 1 → exec (.setc i) s = .next { s with cidx := i }) ∧
    (s.fsm = .idle → ¬ i.toNat ≤ s.cfg.plan.length - 1 → exec (.setc i) s = .next s)

/-- R133: an accepted SETB, which is one in IDLE, writes a valid index and nothing else, with no render and no report; with an
index beyond the last level it changes nothing at all. -/
def Obligations.SetbWritesOnlyAValidIndex : Prop :=
  ∀ (s : State) (i : Byte), s.cfg.admitted = true →
    (s.fsm = .idle → i.toNat ≤ s.cfg.level.length - 1 → exec (.setb i) s = .next { s with bidx := i }) ∧
    (s.fsm = .idle → ¬ i.toNat ≤ s.cfg.level.length - 1 → exec (.setb i) s = .next s)

/-- The model's choice of log entry 14: the meaning of a SETC or SETB in HOLD or RELWAIT, where the port stalls the command
(R78), is that nothing changes. -/
def Obligations.HostCommandsOutsideIdleChangeNothing : Prop :=
  ∀ (s : State) (i : Byte), s.cfg.admitted = true → s.fsm ≠ .idle →
    exec (.setc i) s = .next s ∧ exec (.setb i) s = .next s

/-- R134: CAPTURE stores `cur` in slot `sidx`, whose four bytes are the only bytes of the memory that change, flashes
`sidx + 1` times, each flash a frame of `cur` and a blank, advances `sidx` modulo `N_SLOTS`, and changes nothing else. The
canonical memory of the premise is the model's form (log entry 3). -/
def Obligations.CaptureStoresCurAndFlashes : Prop :=
  ∀ s : State, s.slot.wf = true → s.sidx.toNat < s.cfg.nSlots.val →
    let t := capture s
    t.slot.readTuple (slotAddr s.sidx) = s.cur ∧
    (∀ a, a < slotAddr s.sidx ∨ slotAddr s.sidx + 3 < a → t.slot.read a = s.slot.read a) ∧
    t.trace = s.trace ++ (List.replicate (s.sidx.toNat + 1) [Event.frame s.cur, .frame ⟨0, 0, 0, 0⟩]).flatten ∧
    t.sidx.toNat = (s.sidx.toNat + 1) % s.cfg.nSlots.val ∧
    t = { s with slot := t.slot, trace := t.trace, sidx := t.sidx }

/-- R135: (a) `N_COLOR` colour advances, and `N_BRIGHT` brightness advances, return to the starting index; (b) a SETC or SETB
with an out-of-range index is the identity; (c) of a SETC and a short press the later one decides. In (c) the press is the
sample that enters HOLD and the release after it. -/
def Obligations.IndexLaws : Prop :=
  (∀ s : State, s.ready → (advanceColor^[s.cfg.nColor] s).cidx = s.cidx ∧
    (advanceBright^[s.cfg.nBright] s).bidx = s.bidx) ∧
  (∀ (s : State) (i : Byte), s.cfg.admitted = true →
    (s.cfg.nColor ≤ i.toNat → exec (.setc i) s = .next s) ∧ (s.cfg.nBright ≤ i.toNat → exec (.setb i) s = .next s)) ∧
  (∀ (s : State) (i : Byte), s.cfg.admitted = true → s.fsm = .idle → s.cnt.toNat = s.cfg.shortTh →
    s.cfg.shortTh < s.cfg.cntMax.toNat → i.toNat < s.cfg.nColor →
    (∃ t, runCommands [.setc i, .tick 0, .tick 1] s = .next t ∧ t.cidx = wrapInc i s.cfg.nColor) ∧
    (∃ t, runCommands [.tick 0, .tick 1, .setc i] s = .next t ∧ t.cidx = i))

/-! ## The slot memory -/

/-- R51, R57: a slot reads as the tuple last written there and every other slot is untouched. The canonical form, which the
premise asks and the write keeps, is the model's (log entry 3). -/
def Obligations.SlotReadsBackWholeTuple : Prop :=
  ∀ (m : Memory) (k k' : Byte) (q : Tuple), m.wf = true →
    (m.writeTuple (slotAddr k) q).readTuple (slotAddr k) = q ∧
    (k' ≠ k → (m.writeTuple (slotAddr k) q).readTuple (slotAddr k') = m.readTuple (slotAddr k')) ∧
    (m.writeTuple (slotAddr k) q).wf = true

/-- The canonical form: two canonical memories that read alike everywhere are the same data (log entry 3). -/
def Obligations.EqualReadsMeanEqualMemories : Prop :=
  ∀ m m' : Memory, m.wf = true → m'.wf = true → (∀ a, m.read a = m'.read a) → m = m'

/-- R134 and R107 together: after a capture, a Custom plan that refers to the captured slot renders the captured tuple with
its own brightness. -/
def Obligations.CapturedTupleIsRecalled : Prop :=
  ∀ s u : State, s.slot.wf = true → s.sidx.toNat < s.cfg.nSlots.val → u.slot = (capture s).slot → u.cfg = s.cfg →
    u.cfg.plan[u.cidx.toNat]? = some (.custom s.sidx) →
    anim u = { u with cur := s.cur, trace := u.trace ++ [.frame s.cur] }

/-! ## The mode state machine -/

/-- R160: DEBOUNCE saturates at `CNT_MAX` on a pressed sample, clears the counter on a released one, and writes nothing
else. -/
def Obligations.DebounceSaturates : Prop :=
  ∀ s : State,
    debounce false s = { s with cnt := 0 } ∧
    debounce true s = { s with cnt := (debounce true s).cnt } ∧
    (s.cnt.toNat < s.cfg.cntMax.toNat → (debounce true s).cnt.toNat = s.cnt.toNat + 1) ∧
    (¬ s.cnt.toNat < s.cfg.cntMax.toNat → (debounce true s).cnt = s.cnt)

/-- R167: the complete transition relation of TICK, row by row, with the next state of the mode machine. -/
def Obligations.TickFollowsTheTransitionTable : Prop :=
  ∀ (s : State) (l : ButtonLevel), s.cfg.admitted = true →
    let c' := satInc s.cfg s.cnt
    let j := wrapInc s.cidx s.cfg.nColor
    (s.fsm = .idle → l = 1 → exec (.tick l) s = .next (anim { s with cnt := 0 })) ∧
    (s.fsm = .idle → l = 0 → c'.toNat ≤ s.cfg.shortTh → exec (.tick l) s = .next (anim { s with cnt := c' })) ∧
    (s.fsm = .idle → l = 0 → s.cfg.shortTh < c'.toNat →
      exec (.tick l) s = .next { s with cnt := c', fsm := .hold, trace := s.trace ++ [.frame ⟨0, 0, 0, 0⟩] }) ∧
    (s.fsm = .hold → l = 1 → s.cnt.toNat ≤ s.cfg.longTh →
      exec (.tick l) s =
        .next (anim { s with cidx := j, cnt := 0, fsm := .idle, trace := s.trace ++ [.report .color j] })) ∧
    (s.fsm = .hold → l = 0 → c'.toNat ≤ s.cfg.longTh → exec (.tick l) s = .next { s with cnt := c' }) ∧
    (s.fsm = .hold → l = 0 → s.cfg.longTh < c'.toNat →
      exec (.tick l) s = .next { longAct { s with cnt := c' } with cnt := 0, fsm := .relwait }) ∧
    (s.fsm = .relwait → l = 0 → exec (.tick l) s = .next s) ∧
    (s.fsm = .relwait → l = 1 → exec (.tick l) s = .next (anim { s with fsm := .idle })) ∧
    ∃ t, exec (.tick l) s = .next t ∧
      (s.fsm = .idle → t.fsm = if l = 0 ∧ s.cfg.shortTh < c'.toNat then .hold else .idle) ∧
      (s.fsm = .hold → s.cnt.toNat ≤ s.cfg.longTh →
        t.fsm = if l = 1 then .idle else if s.cfg.longTh < c'.toNat then .relwait else .hold) ∧
      (s.fsm = .relwait → t.fsm = if l = 0 then .relwait else .idle)

/-- R166 with R131 and R134: the long press does the configured action, whole: the state it ends in, for each action. -/
def Obligations.LongPressDoesTheConfiguredAction : Prop :=
  ∀ s : State, s.ready → s.fsm = .hold → s.cfg.longTh < (satInc s.cfg s.cnt).toNat →
    (s.cfg.longAction = .advBright → s.cfg.brightSrc = .level →
      let j : Byte := BitVec.ofNat 8 ((s.bidx.toNat + 1) % s.cfg.nBright)
      let q : Tuple := ⟨s.cur.r, s.cur.g, s.cur.b, s.cfg.level.getD j.toNat 0 &&& s.cfg.brightMask⟩
      exec (.tick 0) s = .next { s with
        bidx := j, cur := q, cnt := 0, fsm := .relwait, trace := s.trace ++ [.report .bright j, .frame q] }) ∧
    (s.cfg.longAction = .advBright → s.cfg.brightSrc = .phase →
      let j : Byte := BitVec.ofNat 8 ((s.bidx.toNat + 1) % s.cfg.nBright)
      exec (.tick 0) s = .next { s with
        bidx := j, cnt := 0, fsm := .relwait, trace := s.trace ++ [.report .bright j, .frame s.cur] }) ∧
    (s.cfg.longAction = .capture →
      exec (.tick 0) s = .next { s with
        slot := s.slot.writeTuple (slotAddr s.sidx) s.cur,
        sidx := BitVec.ofNat 8 ((s.sidx.toNat + 1) % s.cfg.nSlots.val), cnt := 0, fsm := .relwait,
        trace := s.trace ++
          (List.replicate (s.sidx.toNat + 1) [Event.frame s.cur, .frame ⟨0, 0, 0, 0⟩]).flatten })

/-- The frame of TICK. The only form that stores to the slot memory is the capture, whose bytes are the four at
`slotAddr sidx`; only a long press writes `bidx`, `sidx` or the memory; only a short press writes `cidx`; and while HOLD is
entered or kept, or RELWAIT kept, no phase and not `cur` changes. -/
def Obligations.TickFrame : Prop :=
  ∀ (l : ButtonLevel) (s t : State), s.Inv → exec (.tick l) s = .next t →
    (t.cfg = s.cfg ∧ t.tickWords = s.tickWords ∧ t.hostWords = s.hostWords ∧ t.turns = s.turns) ∧
    (¬ s.longPressDue l → t.bidx = s.bidx ∧ t.sidx = s.sidx ∧ ∀ a, t.slot.read a = s.slot.read a) ∧
    (s.longPressDue l → t.phase = s.phase ∧ (s.cfg.longAction = .advBright →
      t.sidx = s.sidx ∧ ∀ a, t.slot.read a = s.slot.read a)) ∧
    (s.longPressDue l → s.cfg.longAction = .capture →
      t.bidx = s.bidx ∧ t.cur = s.cur ∧
      ∀ a, a < slotAddr s.sidx ∨ slotAddr s.sidx + 3 < a → t.slot.read a = s.slot.read a) ∧
    (¬ (s.fsm = .hold ∧ l = 1) → t.cidx = s.cidx) ∧
    (t.fsm = .hold ∨ s.fsm = .relwait ∧ t.fsm = .relwait → t.phase = s.phase ∧ t.cur = s.cur)

/-- R168: a press of n samples and its release, from IDLE with the counter at 0. (a) At most `SHORT_TH` samples only animate.
(b) More, up to `LONG_TH`, animate `SHORT_TH` times, blank once, and on release advance the colour plan and animate once.
(c) Still more do the long action after the blank and animate once on release. (d) Where `LONG_TH >= CNT_MAX` every press
beyond `SHORT_TH` is a short press. R7 allows `SHORT_TH >= CNT_MAX`, where HOLD is never entered: hence the premises on
`CNT_MAX` (log entry 9). -/
def Obligations.PressLengthDecidesTheAction : Prop :=
  ∀ (s : State) (n : Nat), s.cfg.admitted = true → s.fsm = .idle → s.cnt = 0 → 1 ≤ n →
    (n ≤ s.cfg.shortTh → runCommands (pressCommands n) s = .next (anim^[n + 1] s)) ∧
    (s.cfg.shortTh < s.cfg.cntMax.toNat → s.cfg.shortTh < n →
      n ≤ s.cfg.longTh ∨ s.cfg.cntMax.toNat ≤ s.cfg.longTh →
      runCommands (pressCommands n) s = .next (anim (advanceColor (blank (anim^[s.cfg.shortTh] s))))) ∧
    (s.cfg.longTh < s.cfg.cntMax.toNat → s.cfg.longTh < n →
      runCommands (pressCommands n) s = .next (anim (longAct (blank (anim^[s.cfg.shortTh] s)))))

/-- R226: a button held without end keeps the block in RELWAIT, or in HOLD where `LONG_TH >= CNT_MAX`: every TICK is accepted,
no frame is sent, and a host command has no effect (log entry 14). -/
def Obligations.HeldButtonStopsTheAnimation : Prop :=
  ∀ (s : State) (n : Nat), s.cfg.admitted = true →
    (s.fsm = .relwait → runCommands (List.replicate n (.tick 0)) s = .next s ∧
      ∀ i : Byte, exec (.setc i) s = .next s ∧ exec (.setb i) s = .next s) ∧
    (s.fsm = .hold → s.cfg.cntMax.toNat ≤ s.cfg.longTh → s.cnt.toNat ≤ s.cfg.cntMax.toNat →
      ∃ c : Byte, runCommands (List.replicate n (.tick 0)) s = .next { s with cnt := c } ∧
        ∀ i : Byte, exec (.setc i) { s with cnt := c } = .next { s with cnt := c } ∧
          exec (.setb i) { s with cnt := c } = .next { s with cnt := c })

/-- R225, first bound: with `LONG_TH < CNT_MAX`, which R225's figures presume, a HOLD lasts at most `LONG_TH - SHORT_TH` further
TICKs, whatever the button does. -/
def Obligations.HoldIsLeftInBoundedTicks : Prop :=
  ∀ (s : State) (ls : List ButtonLevel), s.cfg.admitted = true → s.fsm = .hold → s.cfg.shortTh < s.cnt.toNat →
    s.cnt.toNat ≤ s.cfg.longTh → s.cfg.longTh < s.cfg.cntMax.toNat → ls.length = s.cfg.longTh - s.cfg.shortTh →
    ∃ k t, k ≤ ls.length ∧ runCommands ((ls.take k).map Instr.tick) s = .next t ∧ t.fsm ≠ .hold

/-! ## The initial indices -/

/-- R25, R26 and R40 (a), (b) say that the plan indices are in range always, and so at reset: a configuration is admitted when
it is well formed and its initial indices are in range, and under any other no step and no command has a meaning. That the
model refuses, where R7 does not list the bound, is the reading of log entry 6. -/
def Obligations.InitialIndicesMustBeInRange : Prop :=
  (∀ c : Config, c.admitted = true ↔
    c.wellFormed = true ∧ c.cidxInit.toNat < c.plan.length ∧ c.bidxInit.toNat < c.level.length) ∧
  ∀ s : State, s.cfg.admitted = false →
    step s = .refused .configNotWellFormed ∧ ∀ i, exec i s = .refused .configNotWellFormed
end

