-- ==== Sys2Proof/Laws/Config.lean ====
section
/-! SUPPORT. The checks of a configuration taken apart: one lemma for each condition that a proof about a step uses. -/

namespace Sys2Proof

theorem Config.wellFormed_iff (c : Config) :
    c.wellFormed = true ↔
      c.nchOk = true ∧ c.brightSrcOk = true ∧ c.countsOk = true ∧ c.incrementsOk = true ∧ c.slotsOk = true ∧
        c.captureOk = true ∧ c.thresholdsOk = true ∧ c.gammaOk = true := by
  simp only [Config.wellFormed, Bool.and_eq_true, and_assoc]

theorem Config.counts_of_wf {c : Config} (h : c.wellFormed = true) :
    1 ≤ c.nColor ∧ c.nColor ≤ 256 ∧ 1 ≤ c.nBright ∧ c.nBright ≤ 256 := by
  simpa [Config.countsOk] using (c.wellFormed_iff.mp h).2.2.1

theorem Config.slot_of_wf {c : Config} (h : c.wellFormed = true) {k : Byte} (hk : Plan.custom k ∈ c.plan) :
    k.toNat < c.nSlots.val := by
  have hs := (c.wellFormed_iff.mp h).2.2.2.2.1
  simpa [Plan.slotOk] using List.all_eq_true.mp hs _ hk

theorem Config.increments_of_wf {c : Config} (h : c.wellFormed = true) {inc : List Byte}
    (hi : Plan.cycling inc ∈ c.plan) : inc.length = c.nch := by
  have hs := (c.wellFormed_iff.mp h).2.2.2.1
  simpa [Plan.incrementsOk] using List.all_eq_true.mp hs _ hi

theorem Config.capture_of_wf {c : Config} (h : c.wellFormed = true) (hc : c.longAction = .capture) :
    1 ≤ c.nSlots.val := by
  have := (c.wellFormed_iff.mp h).2.2.2.2.2.1
  simp only [Config.captureOk, decide_eq_true_eq] at this
  exact this hc

theorem Config.thresholds_of_wf {c : Config} (h : c.wellFormed = true) : c.shortTh < c.longTh := by
  simpa [Config.thresholdsOk] using (c.wellFormed_iff.mp h).2.2.2.2.2.2.1

theorem Config.admitted_iff (c : Config) : c.admitted = true ↔ c.wellFormed = true ∧ c.initInRange = true := by
  simp [Config.admitted]

theorem Config.wf_of_admitted {c : Config} (h : c.admitted = true) : c.wellFormed = true := (c.admitted_iff.mp h).1

theorem Config.init_of_admitted {c : Config} (h : c.admitted = true) :
    c.cidxInit.toNat < c.nColor ∧ c.bidxInit.toNat < c.nBright := by
  simpa [Config.initInRange] using (c.admitted_iff.mp h).2

end Sys2Proof
end

