-- ==== Sys2Proof/Laws/State.lean ====
section
/-! SUPPORT. One lemma per field per write of the state, each true by rfl, so that no proof unfolds a record update. -/

namespace Sys2Proof.Machine

@[simp] theorem State.setPhase_cfg (s : State) (v : Phases) : (s.setPhase v).cfg = s.cfg := rfl
@[simp] theorem State.setPhase_phase (s : State) (v : Phases) : (s.setPhase v).phase = v := rfl
@[simp] theorem State.setPhase_cnt (s : State) (v : Phases) : (s.setPhase v).cnt = s.cnt := rfl
@[simp] theorem State.setPhase_fsm (s : State) (v : Phases) : (s.setPhase v).fsm = s.fsm := rfl
@[simp] theorem State.setPhase_cidx (s : State) (v : Phases) : (s.setPhase v).cidx = s.cidx := rfl
@[simp] theorem State.setPhase_bidx (s : State) (v : Phases) : (s.setPhase v).bidx = s.bidx := rfl
@[simp] theorem State.setPhase_sidx (s : State) (v : Phases) : (s.setPhase v).sidx = s.sidx := rfl
@[simp] theorem State.setPhase_slot (s : State) (v : Phases) : (s.setPhase v).slot = s.slot := rfl
@[simp] theorem State.setPhase_cur (s : State) (v : Phases) : (s.setPhase v).cur = s.cur := rfl
@[simp] theorem State.setPhase_tickWords (s : State) (v : Phases) : (s.setPhase v).tickWords = s.tickWords := rfl
@[simp] theorem State.setPhase_hostWords (s : State) (v : Phases) : (s.setPhase v).hostWords = s.hostWords := rfl
@[simp] theorem State.setPhase_turns (s : State) (v : Phases) : (s.setPhase v).turns = s.turns := rfl
@[simp] theorem State.setPhase_trace (s : State) (v : Phases) : (s.setPhase v).trace = s.trace := rfl

@[simp] theorem State.setCnt_cfg (s : State) (v : Byte) : (s.setCnt v).cfg = s.cfg := rfl
@[simp] theorem State.setCnt_phase (s : State) (v : Byte) : (s.setCnt v).phase = s.phase := rfl
@[simp] theorem State.setCnt_cnt (s : State) (v : Byte) : (s.setCnt v).cnt = v := rfl
@[simp] theorem State.setCnt_fsm (s : State) (v : Byte) : (s.setCnt v).fsm = s.fsm := rfl
@[simp] theorem State.setCnt_cidx (s : State) (v : Byte) : (s.setCnt v).cidx = s.cidx := rfl
@[simp] theorem State.setCnt_bidx (s : State) (v : Byte) : (s.setCnt v).bidx = s.bidx := rfl
@[simp] theorem State.setCnt_sidx (s : State) (v : Byte) : (s.setCnt v).sidx = s.sidx := rfl
@[simp] theorem State.setCnt_slot (s : State) (v : Byte) : (s.setCnt v).slot = s.slot := rfl
@[simp] theorem State.setCnt_cur (s : State) (v : Byte) : (s.setCnt v).cur = s.cur := rfl
@[simp] theorem State.setCnt_tickWords (s : State) (v : Byte) : (s.setCnt v).tickWords = s.tickWords := rfl
@[simp] theorem State.setCnt_hostWords (s : State) (v : Byte) : (s.setCnt v).hostWords = s.hostWords := rfl
@[simp] theorem State.setCnt_turns (s : State) (v : Byte) : (s.setCnt v).turns = s.turns := rfl
@[simp] theorem State.setCnt_trace (s : State) (v : Byte) : (s.setCnt v).trace = s.trace := rfl

@[simp] theorem State.setFsm_cfg (s : State) (v : Fsm) : (s.setFsm v).cfg = s.cfg := rfl
@[simp] theorem State.setFsm_phase (s : State) (v : Fsm) : (s.setFsm v).phase = s.phase := rfl
@[simp] theorem State.setFsm_cnt (s : State) (v : Fsm) : (s.setFsm v).cnt = s.cnt := rfl
@[simp] theorem State.setFsm_fsm (s : State) (v : Fsm) : (s.setFsm v).fsm = v := rfl
@[simp] theorem State.setFsm_cidx (s : State) (v : Fsm) : (s.setFsm v).cidx = s.cidx := rfl
@[simp] theorem State.setFsm_bidx (s : State) (v : Fsm) : (s.setFsm v).bidx = s.bidx := rfl
@[simp] theorem State.setFsm_sidx (s : State) (v : Fsm) : (s.setFsm v).sidx = s.sidx := rfl
@[simp] theorem State.setFsm_slot (s : State) (v : Fsm) : (s.setFsm v).slot = s.slot := rfl
@[simp] theorem State.setFsm_cur (s : State) (v : Fsm) : (s.setFsm v).cur = s.cur := rfl
@[simp] theorem State.setFsm_tickWords (s : State) (v : Fsm) : (s.setFsm v).tickWords = s.tickWords := rfl
@[simp] theorem State.setFsm_hostWords (s : State) (v : Fsm) : (s.setFsm v).hostWords = s.hostWords := rfl
@[simp] theorem State.setFsm_turns (s : State) (v : Fsm) : (s.setFsm v).turns = s.turns := rfl
@[simp] theorem State.setFsm_trace (s : State) (v : Fsm) : (s.setFsm v).trace = s.trace := rfl

@[simp] theorem State.setCidx_cfg (s : State) (v : Byte) : (s.setCidx v).cfg = s.cfg := rfl
@[simp] theorem State.setCidx_phase (s : State) (v : Byte) : (s.setCidx v).phase = s.phase := rfl
@[simp] theorem State.setCidx_cnt (s : State) (v : Byte) : (s.setCidx v).cnt = s.cnt := rfl
@[simp] theorem State.setCidx_fsm (s : State) (v : Byte) : (s.setCidx v).fsm = s.fsm := rfl
@[simp] theorem State.setCidx_cidx (s : State) (v : Byte) : (s.setCidx v).cidx = v := rfl
@[simp] theorem State.setCidx_bidx (s : State) (v : Byte) : (s.setCidx v).bidx = s.bidx := rfl
@[simp] theorem State.setCidx_sidx (s : State) (v : Byte) : (s.setCidx v).sidx = s.sidx := rfl
@[simp] theorem State.setCidx_slot (s : State) (v : Byte) : (s.setCidx v).slot = s.slot := rfl
@[simp] theorem State.setCidx_cur (s : State) (v : Byte) : (s.setCidx v).cur = s.cur := rfl
@[simp] theorem State.setCidx_tickWords (s : State) (v : Byte) : (s.setCidx v).tickWords = s.tickWords := rfl
@[simp] theorem State.setCidx_hostWords (s : State) (v : Byte) : (s.setCidx v).hostWords = s.hostWords := rfl
@[simp] theorem State.setCidx_turns (s : State) (v : Byte) : (s.setCidx v).turns = s.turns := rfl
@[simp] theorem State.setCidx_trace (s : State) (v : Byte) : (s.setCidx v).trace = s.trace := rfl

@[simp] theorem State.setBidx_cfg (s : State) (v : Byte) : (s.setBidx v).cfg = s.cfg := rfl
@[simp] theorem State.setBidx_phase (s : State) (v : Byte) : (s.setBidx v).phase = s.phase := rfl
@[simp] theorem State.setBidx_cnt (s : State) (v : Byte) : (s.setBidx v).cnt = s.cnt := rfl
@[simp] theorem State.setBidx_fsm (s : State) (v : Byte) : (s.setBidx v).fsm = s.fsm := rfl
@[simp] theorem State.setBidx_cidx (s : State) (v : Byte) : (s.setBidx v).cidx = s.cidx := rfl
@[simp] theorem State.setBidx_bidx (s : State) (v : Byte) : (s.setBidx v).bidx = v := rfl
@[simp] theorem State.setBidx_sidx (s : State) (v : Byte) : (s.setBidx v).sidx = s.sidx := rfl
@[simp] theorem State.setBidx_slot (s : State) (v : Byte) : (s.setBidx v).slot = s.slot := rfl
@[simp] theorem State.setBidx_cur (s : State) (v : Byte) : (s.setBidx v).cur = s.cur := rfl
@[simp] theorem State.setBidx_tickWords (s : State) (v : Byte) : (s.setBidx v).tickWords = s.tickWords := rfl
@[simp] theorem State.setBidx_hostWords (s : State) (v : Byte) : (s.setBidx v).hostWords = s.hostWords := rfl
@[simp] theorem State.setBidx_turns (s : State) (v : Byte) : (s.setBidx v).turns = s.turns := rfl
@[simp] theorem State.setBidx_trace (s : State) (v : Byte) : (s.setBidx v).trace = s.trace := rfl

@[simp] theorem State.setSidx_cfg (s : State) (v : Byte) : (s.setSidx v).cfg = s.cfg := rfl
@[simp] theorem State.setSidx_phase (s : State) (v : Byte) : (s.setSidx v).phase = s.phase := rfl
@[simp] theorem State.setSidx_cnt (s : State) (v : Byte) : (s.setSidx v).cnt = s.cnt := rfl
@[simp] theorem State.setSidx_fsm (s : State) (v : Byte) : (s.setSidx v).fsm = s.fsm := rfl
@[simp] theorem State.setSidx_cidx (s : State) (v : Byte) : (s.setSidx v).cidx = s.cidx := rfl
@[simp] theorem State.setSidx_bidx (s : State) (v : Byte) : (s.setSidx v).bidx = s.bidx := rfl
@[simp] theorem State.setSidx_sidx (s : State) (v : Byte) : (s.setSidx v).sidx = v := rfl
@[simp] theorem State.setSidx_slot (s : State) (v : Byte) : (s.setSidx v).slot = s.slot := rfl
@[simp] theorem State.setSidx_cur (s : State) (v : Byte) : (s.setSidx v).cur = s.cur := rfl
@[simp] theorem State.setSidx_tickWords (s : State) (v : Byte) : (s.setSidx v).tickWords = s.tickWords := rfl
@[simp] theorem State.setSidx_hostWords (s : State) (v : Byte) : (s.setSidx v).hostWords = s.hostWords := rfl
@[simp] theorem State.setSidx_turns (s : State) (v : Byte) : (s.setSidx v).turns = s.turns := rfl
@[simp] theorem State.setSidx_trace (s : State) (v : Byte) : (s.setSidx v).trace = s.trace := rfl

@[simp] theorem State.setSlot_cfg (s : State) (v : Memory) : (s.setSlot v).cfg = s.cfg := rfl
@[simp] theorem State.setSlot_phase (s : State) (v : Memory) : (s.setSlot v).phase = s.phase := rfl
@[simp] theorem State.setSlot_cnt (s : State) (v : Memory) : (s.setSlot v).cnt = s.cnt := rfl
@[simp] theorem State.setSlot_fsm (s : State) (v : Memory) : (s.setSlot v).fsm = s.fsm := rfl
@[simp] theorem State.setSlot_cidx (s : State) (v : Memory) : (s.setSlot v).cidx = s.cidx := rfl
@[simp] theorem State.setSlot_bidx (s : State) (v : Memory) : (s.setSlot v).bidx = s.bidx := rfl
@[simp] theorem State.setSlot_sidx (s : State) (v : Memory) : (s.setSlot v).sidx = s.sidx := rfl
@[simp] theorem State.setSlot_slot (s : State) (v : Memory) : (s.setSlot v).slot = v := rfl
@[simp] theorem State.setSlot_cur (s : State) (v : Memory) : (s.setSlot v).cur = s.cur := rfl
@[simp] theorem State.setSlot_tickWords (s : State) (v : Memory) : (s.setSlot v).tickWords = s.tickWords := rfl
@[simp] theorem State.setSlot_hostWords (s : State) (v : Memory) : (s.setSlot v).hostWords = s.hostWords := rfl
@[simp] theorem State.setSlot_turns (s : State) (v : Memory) : (s.setSlot v).turns = s.turns := rfl
@[simp] theorem State.setSlot_trace (s : State) (v : Memory) : (s.setSlot v).trace = s.trace := rfl

@[simp] theorem State.setCur_cfg (s : State) (v : Tuple) : (s.setCur v).cfg = s.cfg := rfl
@[simp] theorem State.setCur_phase (s : State) (v : Tuple) : (s.setCur v).phase = s.phase := rfl
@[simp] theorem State.setCur_cnt (s : State) (v : Tuple) : (s.setCur v).cnt = s.cnt := rfl
@[simp] theorem State.setCur_fsm (s : State) (v : Tuple) : (s.setCur v).fsm = s.fsm := rfl
@[simp] theorem State.setCur_cidx (s : State) (v : Tuple) : (s.setCur v).cidx = s.cidx := rfl
@[simp] theorem State.setCur_bidx (s : State) (v : Tuple) : (s.setCur v).bidx = s.bidx := rfl
@[simp] theorem State.setCur_sidx (s : State) (v : Tuple) : (s.setCur v).sidx = s.sidx := rfl
@[simp] theorem State.setCur_slot (s : State) (v : Tuple) : (s.setCur v).slot = s.slot := rfl
@[simp] theorem State.setCur_cur (s : State) (v : Tuple) : (s.setCur v).cur = v := rfl
@[simp] theorem State.setCur_tickWords (s : State) (v : Tuple) : (s.setCur v).tickWords = s.tickWords := rfl
@[simp] theorem State.setCur_hostWords (s : State) (v : Tuple) : (s.setCur v).hostWords = s.hostWords := rfl
@[simp] theorem State.setCur_turns (s : State) (v : Tuple) : (s.setCur v).turns = s.turns := rfl
@[simp] theorem State.setCur_trace (s : State) (v : Tuple) : (s.setCur v).trace = s.trace := rfl

@[simp] theorem State.setTickWords_cfg (s : State) (v : List Word) : (s.setTickWords v).cfg = s.cfg := rfl
@[simp] theorem State.setTickWords_phase (s : State) (v : List Word) : (s.setTickWords v).phase = s.phase := rfl
@[simp] theorem State.setTickWords_cnt (s : State) (v : List Word) : (s.setTickWords v).cnt = s.cnt := rfl
@[simp] theorem State.setTickWords_fsm (s : State) (v : List Word) : (s.setTickWords v).fsm = s.fsm := rfl
@[simp] theorem State.setTickWords_cidx (s : State) (v : List Word) : (s.setTickWords v).cidx = s.cidx := rfl
@[simp] theorem State.setTickWords_bidx (s : State) (v : List Word) : (s.setTickWords v).bidx = s.bidx := rfl
@[simp] theorem State.setTickWords_sidx (s : State) (v : List Word) : (s.setTickWords v).sidx = s.sidx := rfl
@[simp] theorem State.setTickWords_slot (s : State) (v : List Word) : (s.setTickWords v).slot = s.slot := rfl
@[simp] theorem State.setTickWords_cur (s : State) (v : List Word) : (s.setTickWords v).cur = s.cur := rfl
@[simp] theorem State.setTickWords_tickWords (s : State) (v : List Word) : (s.setTickWords v).tickWords = v := rfl
@[simp] theorem State.setTickWords_hostWords (s : State) (v : List Word) : (s.setTickWords v).hostWords = s.hostWords := rfl
@[simp] theorem State.setTickWords_turns (s : State) (v : List Word) : (s.setTickWords v).turns = s.turns := rfl
@[simp] theorem State.setTickWords_trace (s : State) (v : List Word) : (s.setTickWords v).trace = s.trace := rfl

@[simp] theorem State.setHostWords_cfg (s : State) (v : List Word) : (s.setHostWords v).cfg = s.cfg := rfl
@[simp] theorem State.setHostWords_phase (s : State) (v : List Word) : (s.setHostWords v).phase = s.phase := rfl
@[simp] theorem State.setHostWords_cnt (s : State) (v : List Word) : (s.setHostWords v).cnt = s.cnt := rfl
@[simp] theorem State.setHostWords_fsm (s : State) (v : List Word) : (s.setHostWords v).fsm = s.fsm := rfl
@[simp] theorem State.setHostWords_cidx (s : State) (v : List Word) : (s.setHostWords v).cidx = s.cidx := rfl
@[simp] theorem State.setHostWords_bidx (s : State) (v : List Word) : (s.setHostWords v).bidx = s.bidx := rfl
@[simp] theorem State.setHostWords_sidx (s : State) (v : List Word) : (s.setHostWords v).sidx = s.sidx := rfl
@[simp] theorem State.setHostWords_slot (s : State) (v : List Word) : (s.setHostWords v).slot = s.slot := rfl
@[simp] theorem State.setHostWords_cur (s : State) (v : List Word) : (s.setHostWords v).cur = s.cur := rfl
@[simp] theorem State.setHostWords_tickWords (s : State) (v : List Word) : (s.setHostWords v).tickWords = s.tickWords := rfl
@[simp] theorem State.setHostWords_hostWords (s : State) (v : List Word) : (s.setHostWords v).hostWords = v := rfl
@[simp] theorem State.setHostWords_turns (s : State) (v : List Word) : (s.setHostWords v).turns = s.turns := rfl
@[simp] theorem State.setHostWords_trace (s : State) (v : List Word) : (s.setHostWords v).trace = s.trace := rfl

@[simp] theorem State.setTurns_cfg (s : State) (v : List Turn) : (s.setTurns v).cfg = s.cfg := rfl
@[simp] theorem State.setTurns_phase (s : State) (v : List Turn) : (s.setTurns v).phase = s.phase := rfl
@[simp] theorem State.setTurns_cnt (s : State) (v : List Turn) : (s.setTurns v).cnt = s.cnt := rfl
@[simp] theorem State.setTurns_fsm (s : State) (v : List Turn) : (s.setTurns v).fsm = s.fsm := rfl
@[simp] theorem State.setTurns_cidx (s : State) (v : List Turn) : (s.setTurns v).cidx = s.cidx := rfl
@[simp] theorem State.setTurns_bidx (s : State) (v : List Turn) : (s.setTurns v).bidx = s.bidx := rfl
@[simp] theorem State.setTurns_sidx (s : State) (v : List Turn) : (s.setTurns v).sidx = s.sidx := rfl
@[simp] theorem State.setTurns_slot (s : State) (v : List Turn) : (s.setTurns v).slot = s.slot := rfl
@[simp] theorem State.setTurns_cur (s : State) (v : List Turn) : (s.setTurns v).cur = s.cur := rfl
@[simp] theorem State.setTurns_tickWords (s : State) (v : List Turn) : (s.setTurns v).tickWords = s.tickWords := rfl
@[simp] theorem State.setTurns_hostWords (s : State) (v : List Turn) : (s.setTurns v).hostWords = s.hostWords := rfl
@[simp] theorem State.setTurns_turns (s : State) (v : List Turn) : (s.setTurns v).turns = v := rfl
@[simp] theorem State.setTurns_trace (s : State) (v : List Turn) : (s.setTurns v).trace = s.trace := rfl

@[simp] theorem State.emit_cfg (s : State) (e : Event) : (s.emit e).cfg = s.cfg := rfl
@[simp] theorem State.emit_phase (s : State) (e : Event) : (s.emit e).phase = s.phase := rfl
@[simp] theorem State.emit_cnt (s : State) (e : Event) : (s.emit e).cnt = s.cnt := rfl
@[simp] theorem State.emit_fsm (s : State) (e : Event) : (s.emit e).fsm = s.fsm := rfl
@[simp] theorem State.emit_cidx (s : State) (e : Event) : (s.emit e).cidx = s.cidx := rfl
@[simp] theorem State.emit_bidx (s : State) (e : Event) : (s.emit e).bidx = s.bidx := rfl
@[simp] theorem State.emit_sidx (s : State) (e : Event) : (s.emit e).sidx = s.sidx := rfl
@[simp] theorem State.emit_slot (s : State) (e : Event) : (s.emit e).slot = s.slot := rfl
@[simp] theorem State.emit_cur (s : State) (e : Event) : (s.emit e).cur = s.cur := rfl
@[simp] theorem State.emit_tickWords (s : State) (e : Event) : (s.emit e).tickWords = s.tickWords := rfl
@[simp] theorem State.emit_hostWords (s : State) (e : Event) : (s.emit e).hostWords = s.hostWords := rfl
@[simp] theorem State.emit_turns (s : State) (e : Event) : (s.emit e).turns = s.turns := rfl
@[simp] theorem State.emit_trace (s : State) (e : Event) : (s.emit e).trace = s.trace ++ [e] := rfl

end Sys2Proof.Machine
end

