-- ==== Sys2Proof/Laws/Ops.lean ====
section
/-! SUPPORT. The shared operations of Machine/Ops.lean: the refusal of a configuration, the slot write, and the arithmetic of
the counter and of the indices. -/

namespace Sys2Proof.Machine

theorem withConfig_of_admitted {s : State} (h : s.cfg.admitted = true) (t : State) : withConfig s t = .next t := by
  simp [withConfig, h]

theorem withConfig_of_not_admitted {s : State} (h : s.cfg.admitted = false) (t : State) :
    withConfig s t = .refused .configNotWellFormed := by
  simp [withConfig, h]

theorem withConfig_eq_next {s t u : State} : withConfig s t = .next u ↔ s.cfg.admitted = true ∧ t = u := by
  unfold withConfig
  split <;> simp_all

/-- A slot write changes at most the slot memory. -/
theorem writeSlot_eq (s : State) (k : Byte) (q : Tuple) :
    s.writeSlot k q =
      { s with slot := if k.toNat < s.cfg.nSlots.val then s.slot.writeTuple (slotAddr k) q else s.slot } := by
  unfold State.writeSlot
  split <;> rfl

/-- A plan index in range reads an entry of `PLAN`. -/
theorem activePlan_eq {s : State} {d : Plan} (h : s.cfg.plan[s.cidx.toNat]? = some d) : s.activePlan = d := by
  simp [State.activePlan, h]

theorem activePlan_mem {s : State} (h : s.cidx.toNat < s.cfg.nColor) : s.activePlan ∈ s.cfg.plan := by
  have h : s.cidx.toNat < s.cfg.plan.length := h
  simp [State.activePlan, List.getElem?_eq_getElem h]

/-- A brightness index in range reads an entry of `LEVEL`. -/
theorem activeLevel_eq {s : State} (h : s.bidx.toNat < s.cfg.nBright) : s.activeLevel = s.cfg.level.getD s.bidx.toNat 0 := by
  have h : s.bidx.toNat < s.cfg.level.length := h
  simp [State.activeLevel, List.getElem?_eq_getElem h, List.getD_eq_getElem?_getD]

theorem satInc_toNat (c : Config) (v : Byte) :
    (satInc c v).toNat = if v.toNat < c.cntMax.toNat then v.toNat + 1 else v.toNat := by
  have := c.cntMax.isLt
  unfold satInc
  split
  · rw [BitVec.toNat_add]
    simp
    omega
  · rfl

theorem satInc_le_cntMax (c : Config) (v : Byte) (h : v.toNat ≤ c.cntMax.toNat) : (satInc c v).toNat ≤ c.cntMax.toNat := by
  rw [satInc_toNat]
  split <;> omega

theorem wrapInc_toNat (i : Byte) (n : Nat) (hi : i.toNat < n) (hn : n ≤ 256) :
    (wrapInc i n).toNat = if i.toNat = n - 1 then 0 else i.toNat + 1 := by
  unfold wrapInc
  split
  · rfl
  · rw [BitVec.toNat_add]
    simp
    omega

theorem wrapInc_lt (i : Byte) (n : Nat) (hi : i.toNat < n) (hn : n ≤ 256) : (wrapInc i n).toNat < n := by
  rw [wrapInc_toNat i n hi hn]
  split <;> omega

end Sys2Proof.Machine
end

