-- ==== Sys2Proof/Laws/Animation.lean ====
section
/-! SUPPORT. The animation step: the fields that RENDER and BLANK write, and what ANIM does. -/

namespace Sys2Proof.Machine

theorem render_eq (q : Tuple) (s : State) : render q s = { s with trace := s.trace ++ [.frame q], cur := q } := rfl

theorem blank_eq (s : State) : blank s = { s with trace := s.trace ++ [.frame Tuple.zero] } := rfl

@[simp] theorem phaseAdvance_cfg (inc : List Byte) (s : State) : (phaseAdvance inc s).cfg = s.cfg := rfl

theorem phaseAdvance_eq (inc : List Byte) (s : State) :
    phaseAdvance inc s = { s with phase := advancePhases s.cfg.nch inc s.phase } := rfl

/-- What ANIM does: it renders one tuple, from the held phases or from those that a Cycling plan advances. -/
theorem anim_cases (s : State) :
    ∃ p q, anim s = render q (s.setPhase p) ∧
      (p = s.phase ∨ ∃ inc, s.activePlan = .cycling inc ∧ p = advancePhases s.cfg.nch inc s.phase) := by
  unfold anim
  cases h : s.activePlan with
  | cycling inc => exact ⟨_, _, rfl, .inr ⟨inc, rfl, rfl⟩⟩
  | fixed r g b => exact ⟨s.phase, _, rfl, .inl rfl⟩
  | custom k => exact ⟨s.phase, _, rfl, .inl rfl⟩

/-- ANIM changes the phases, `cur` and the trace, which gains the one frame of the new `cur`. -/
theorem anim_frame (s : State) :
    anim s = { s with phase := (anim s).phase, cur := (anim s).cur, trace := s.trace ++ [.frame (anim s).cur] } := by
  obtain ⟨p, q, h, -⟩ := anim_cases s
  rw [h]
  rfl

/-- ANIM neither reads nor writes the counter or the mode. -/
theorem anim_setCnt_setFsm (s : State) (c : Byte) (f : Fsm) :
    anim ((s.setCnt c).setFsm f) = ((anim s).setCnt c).setFsm f := by
  have hp : ((s.setCnt c).setFsm f).activePlan = s.activePlan := rfl
  unfold anim
  rw [hp]
  cases s.activePlan <;> rfl

end Sys2Proof.Machine
end

