-- ==== Sys2Proof/Laws/Memory.lean ====
section
/-! SUPPORT. The custom-slot memory: what a read gives after a write, and that every write keeps the canonical form and
stays below a bound on the addresses. -/

namespace Sys2Proof.Machine

/-- An address below every listed one reads as unlisted. -/
theorem Memory.read_below (m : Memory) (lo a : Nat) (h : Memory.wfFrom lo m = true) (ha : a < lo) : m.read a = 0#8 := by
  induction m generalizing lo with
  | nil => rfl
  | cons c m ih =>
    simp only [Memory.wfFrom, Bool.and_eq_true, decide_eq_true_eq] at h
    have hne : a ≠ c.1 := by omega
    simpa [Memory.read, hne] using ih (c.1 + 1) h.2 (by omega)

/-- A canonical memory above `lo` is canonical above anything lower. -/
theorem Memory.wfFrom_mono (m : Memory) (lo lo' : Nat) (hlo : lo' ≤ lo) (h : Memory.wfFrom lo m = true) :
    Memory.wfFrom lo' m = true := by
  cases m with
  | nil => rfl
  | cons c m =>
    simp only [Memory.wfFrom, Bool.and_eq_true, decide_eq_true_eq] at h ⊢
    exact ⟨⟨by omega, h.1.2⟩, h.2⟩

theorem Memory.read_write_same (m : Memory) (a : Nat) (v : Byte) (lo : Nat) (h : Memory.wfFrom lo m = true) :
    (m.write a v).read a = v := by
  induction m generalizing lo with
  | nil => by_cases hv : v = 0#8 <;> simp [Memory.write, Memory.read, hv]
  | cons c m ih =>
    obtain ⟨b, x⟩ := c
    simp only [Memory.wfFrom, Bool.and_eq_true, decide_eq_true_eq] at h
    rcases Nat.lt_trichotomy a b with hlt | heq | hgt
    · by_cases hv : v = 0#8
      · have hne : a ≠ b := by omega
        simp [Memory.write, Memory.read, hlt, hv, hne, Memory.read_below m (b + 1) a h.2 (by omega)]
      · simp [Memory.write, Memory.read, hlt, hv]
    · subst heq
      by_cases hv : v = 0#8
      · simp [Memory.write, hv, Memory.read_below m (a + 1) a h.2 (by omega)]
      · simp [Memory.write, Memory.read, hv]
    · have hnl : ¬ a < b := by omega
      have hne : a ≠ b := by omega
      simp [Memory.write, Memory.read, hnl, hne, ih _ h.2]

theorem Memory.read_write_other (m : Memory) (a a' : Nat) (v : Byte) (hne : a' ≠ a) (lo : Nat)
    (h : Memory.wfFrom lo m = true) : (m.write a v).read a' = m.read a' := by
  induction m generalizing lo with
  | nil => by_cases hv : v = 0#8 <;> simp [Memory.write, Memory.read, hv, hne]
  | cons c m ih =>
    obtain ⟨b, x⟩ := c
    simp only [Memory.wfFrom, Bool.and_eq_true, decide_eq_true_eq] at h
    rcases Nat.lt_trichotomy a b with hlt | heq | hgt
    · by_cases hv : v = 0#8 <;> simp [Memory.write, Memory.read, hlt, hv, hne]
    · subst heq
      by_cases hv : v = 0#8 <;> simp [Memory.write, Memory.read, hv, hne]
    · have hnl : ¬ a < b := by omega
      have hne' : a ≠ b := by omega
      simp [Memory.write, Memory.read, hnl, hne', ih _ h.2]

theorem Memory.wfFrom_write (m : Memory) (a : Nat) (v : Byte) (lo : Nat) (h : Memory.wfFrom lo m = true) (hlo : lo ≤ a) :
    Memory.wfFrom lo (m.write a v) = true := by
  induction m generalizing lo with
  | nil =>
    by_cases hv : v = 0#8
    · simp [Memory.write, hv, Memory.wfFrom]
    · simp [Memory.write, hv, Memory.wfFrom, hlo]
  | cons c m ih =>
    obtain ⟨b, x⟩ := c
    have hall := h
    simp only [Memory.wfFrom, Bool.and_eq_true, decide_eq_true_eq] at h
    obtain ⟨⟨hb, hx⟩, hm⟩ := h
    rcases Nat.lt_trichotomy a b with hlt | heq | hgt
    · by_cases hv : v = 0#8
      · simpa [Memory.write, hlt, hv] using hall
      · have hb' : a + 1 ≤ b := by omega
        simp_all [Memory.write, Memory.wfFrom]
    · subst heq
      by_cases hv : v = 0#8
      · simpa [Memory.write, hv] using Memory.wfFrom_mono m (a + 1) lo (by omega) hm
      · simp_all [Memory.write, Memory.wfFrom]
    · have hnl : ¬ a < b := by omega
      have hne : a ≠ b := by omega
      simp only [Memory.write, hnl, hne, if_false, Memory.wfFrom, Bool.and_eq_true, decide_eq_true_eq]
      exact ⟨⟨hb, hx⟩, ih _ hm (by omega)⟩

theorem Memory.wf_write (m : Memory) (a : Nat) (v : Byte) (h : m.wf = true) : (m.write a v).wf = true :=
  Memory.wfFrom_write m a v 0 h (Nat.zero_le a)

theorem Memory.wf_writeTuple (m : Memory) (a : Nat) (q : Tuple) (h : m.wf = true) : (m.writeTuple a q).wf = true :=
  Memory.wf_write _ _ _ (Memory.wf_write _ _ _ (Memory.wf_write _ _ _ (Memory.wf_write _ _ _ h)))

theorem Memory.below_write (hi : Nat) (m : Memory) (a : Nat) (v : Byte) (h : m.below hi = true) (ha : a < hi) :
    (m.write a v).below hi = true := by
  induction m with
  | nil => by_cases hv : v = 0#8 <;> simp [Memory.write, Memory.below, hv, ha]
  | cons c m ih =>
    obtain ⟨b, x⟩ := c
    have hc : b < hi ∧ Memory.below hi m = true := by simpa [Memory.below] using h
    have hm : ∀ n : Memory, Memory.below hi n = true → Memory.below hi ((b, x) :: n) = true := by
      intro n hn
      simpa [Memory.below, hc.1] using hn
    have hav : Memory.below hi ((a, v) :: m) = true ∧ Memory.below hi ((a, v) :: (b, x) :: m) = true := by
      have h2 := hc.2
      simp only [Memory.below] at h2
      simp [Memory.below, ha, hc.1] at h2 ⊢
      exact h2
    rcases Nat.lt_trichotomy a b with hlt | heq | hgt
    · by_cases hv : v = 0#8
      · simpa [Memory.write, hlt, hv] using h
      · simpa [Memory.write, hlt, hv] using hav.2
    · by_cases hv : v = 0#8
      · simpa [Memory.write, heq, hv] using hc.2
      · subst heq
        simpa [Memory.write, hv] using hav.1
    · have hnl : ¬ a < b := by omega
      have hne : a ≠ b := by omega
      simpa [Memory.write, hnl, hne] using hm _ (ih hc.2)

theorem Memory.below_writeTuple (hi : Nat) (m : Memory) (a : Nat) (q : Tuple) (h : m.below hi = true) (ha : a + 3 < hi) :
    (m.writeTuple a q).below hi = true :=
  Memory.below_write _ _ _ _
    (Memory.below_write _ _ _ _
      (Memory.below_write _ _ _ _ (Memory.below_write _ _ _ _ h (by omega)) (by omega)) (by omega)) ha

/-- A tuple write leaves every byte outside its four alone. -/
theorem Memory.read_writeTuple_outside (m : Memory) (a a' : Nat) (q : Tuple) (h : m.wf = true)
    (ho : a' < a ∨ a + 3 < a') : (m.writeTuple a q).read a' = m.read a' := by
  have h1 := Memory.wf_write m a q.r h
  have h2 := Memory.wf_write _ (a + 1) q.g h1
  have h3 := Memory.wf_write _ (a + 2) q.b h2
  unfold Memory.writeTuple
  rw [Memory.read_write_other _ _ _ _ (by omega) 0 h3, Memory.read_write_other _ _ _ _ (by omega) 0 h2,
    Memory.read_write_other _ _ _ _ (by omega) 0 h1, Memory.read_write_other _ _ _ _ (by omega) 0 h]

end Sys2Proof.Machine
end

