-- ==== Sys2Proof/Laws/Selector.lean ====
section
/-! SUPPORT. The advance operations and the capture: what each does. -/

namespace Sys2Proof.Machine

theorem advanceColor_eq (s : State) :
    advanceColor s = { s with cidx := wrapInc s.cidx s.cfg.nColor,
                              trace := s.trace ++ [.report .color (wrapInc s.cidx s.cfg.nColor)] } := rfl

/-- ADVANCE_BRIGHT advances, reports, and renders the colour of `cur` at the off-cycle brightness. -/
theorem advanceBright_eq (s : State) :
    let i := wrapInc s.bidx s.cfg.nBright
    let q : Tuple := ⟨s.cur.r, s.cur.g, s.cur.b, offCycleBright ((s.setBidx i).emit (.report .bright i))⟩
    advanceBright s = { s with bidx := i, cur := q, trace := s.trace ++ [.report .bright i] ++ [.frame q] } := rfl

/-- The events of n flashes (R134). -/
def flashEvents (q : Tuple) (n : Nat) : List Event := (List.replicate n [Event.frame q, Event.frame Tuple.zero]).flatten

theorem flash_eq (n : Nat) (s : State) : flash n s = { s with trace := s.trace ++ flashEvents s.cur n } := by
  induction n generalizing s with
  | zero => simp [flash, flashEvents]
  | succ n ih =>
    rw [flash, ih]
    simp [flashEvents, blank, State.emit, List.replicate_succ]

/-- CAPTURE stores `cur` in slot `sidx`, flashes and advances `sidx`. -/
theorem capture_eq (s : State) :
    capture s =
      { s with slot := if s.sidx.toNat < s.cfg.nSlots.val then s.slot.writeTuple (slotAddr s.sidx) s.cur else s.slot,
               trace := s.trace ++ flashEvents s.cur (s.sidx.toNat + 1),
               sidx := BitVec.ofNat 8 ((s.sidx.toNat + 1) % s.cfg.nSlots.val) } := by
  simp only [capture, flash_eq, writeSlot_eq]
  rfl

end Sys2Proof.Machine
end

