-- ==== Sys2Proof/Laws/Button.lean ====
section
/-! SUPPORT. The mode state machine: what the long-press action and a TICK can do, and where a command has a meaning. -/

namespace Sys2Proof.Machine

/-- LONG_ACT is the configured one of its two actions. -/
theorem longAct_cases (s : State) :
    (s.cfg.longAction = .advBright ∧ longAct s = advanceBright s) ∨ (s.cfg.longAction = .capture ∧ longAct s = capture s) := by
  unfold longAct
  cases s.cfg.longAction
  · exact .inl ⟨rfl, rfl⟩
  · exact .inr ⟨rfl, rfl⟩

/-- What a TICK can do (R167, with the rows that end alike put together): enter HOLD with a blank; count on in HOLD; wait in
RELWAIT; animate in IDLE; animate on release; advance the colour plan and animate; act on a long press. -/
theorem tickCycle_cases (p : Bool) (s : State) :
    (s.fsm = .idle ∧ p = true ∧ s.cfg.shortTh < (satInc s.cfg s.cnt).toNat ∧
        tickCycle p s = (blank (s.setCnt (satInc s.cfg s.cnt))).setFsm .hold) ∨
    (s.fsm = .hold ∧ p = true ∧ (satInc s.cfg s.cnt).toNat ≤ s.cfg.longTh ∧
        tickCycle p s = s.setCnt (satInc s.cfg s.cnt)) ∨
    (s.fsm = .relwait ∧ p = true ∧ tickCycle p s = s) ∨
    (s.fsm = .idle ∧ ∃ c, c.toNat ≤ s.cfg.shortTh ∧ (p = false ∧ c = 0 ∨ p = true ∧ c = satInc s.cfg s.cnt) ∧
        tickCycle p s = anim (s.setCnt c)) ∨
    (s.fsm = .relwait ∧ p = false ∧ tickCycle p s = anim (s.setFsm .idle)) ∨
    (s.fsm = .hold ∧ p = false ∧ s.cnt.toNat ≤ s.cfg.longTh ∧
        tickCycle p s = anim (((advanceColor s).setCnt 0).setFsm .idle)) ∨
    (s.fsm = .hold ∧ ∃ c, (p = false ∧ c = s.cnt ∨ p = true ∧ c = satInc s.cfg s.cnt) ∧ s.cfg.longTh < c.toNat ∧
        tickCycle p s = ((longAct (s.setCnt c)).setCnt 0).setFsm .relwait) := by
  unfold tickCycle
  cases hf : s.fsm with
  | idle =>
    cases p with
    | true =>
      by_cases h : s.cfg.shortTh < (satInc s.cfg s.cnt).toNat
      · simp [tickIdle, overShort, debounce, h]
      · simp [tickIdle, overShort, debounce, h, Nat.not_lt.mp h]
    | false => simp [tickIdle, overShort, debounce]
  | relwait => cases p <;> simp [tickRelwait]
  | hold =>
    cases p with
    | true =>
      by_cases h : s.cfg.longTh < (satInc s.cfg s.cnt).toNat
      · simp [tickHold, overLong, holdCount, longPress, h]
      · simp [tickHold, overLong, holdCount, h, Nat.not_lt.mp h]
    | false =>
      by_cases h : s.cfg.longTh < s.cnt.toNat
      · have hs : s.setCnt s.cnt = s := rfl
        simp [tickHold, overLong, holdCount, longPress, h, hs]
      · simp [tickHold, overLong, holdCount, shortPress, h, Nat.not_lt.mp h]

/-- A TICK has a meaning exactly under an admitted configuration, and there it is one cycle. -/
theorem execTick_of_admitted {s : State} (h : s.cfg.admitted = true) (l : ButtonLevel) :
    exec (.tick l) s = .next (tickCycle (pressed l) s) := withConfig_of_admitted h _

theorem execSetc_of_admitted {s : State} (h : s.cfg.admitted = true) (i : Byte) :
    exec (.setc i) s = .next (if s.cmdReady then setColorPlan i s else s) := withConfig_of_admitted h _

theorem execSetb_of_admitted {s : State} (h : s.cfg.admitted = true) (i : Byte) :
    exec (.setb i) s = .next (if s.cmdReady then setBrightPlan i s else s) := withConfig_of_admitted h _

end Sys2Proof.Machine
end

