-- ==== Sys2Proof/Laws/Decode.lean ====
section
/-! SUPPORT. The command word as a number: the fields of a word and the words of the encoder, so that a fact about the
encoding is one of arithmetic. -/

namespace Sys2Proof

theorem opField_toNat (w : Word) : (opField w).toNat = w.toNat / 4096 % 16 := by
  simp [opField, Nat.shiftRight_eq_div_pow]

theorem rsvField_toNat (w : Word) : (rsvField w).toNat = w.toNat / 256 % 16 := by
  simp [rsvField, Nat.shiftRight_eq_div_pow]

theorem argField_toNat (w : Word) : (argField w).toNat = w.toNat % 256 := by
  simp [argField]

theorem levelField_toNat (w : Word) : (levelField w).toNat = w.toNat % 2 := by
  simp [levelField]

theorem tickRestField_toNat (w : Word) : (tickRestField w).toNat = w.toNat / 2 % 128 := by
  simp [tickRestField, Nat.shiftRight_eq_div_pow]

theorem encode_tick_toNat (l : ButtonLevel) : (encode (.tick l)).toNat = 0x1000 + l.toNat := by
  have h : ∀ l : ButtonLevel, (encode (.tick l)).toNat = 0x1000 + l.toNat := by decide
  exact h l

theorem encode_setc_toNat (i : Byte) : (encode (.setc i)).toNat = 0x2000 + i.toNat := by
  have h : ∀ i : Byte, (encode (.setc i)).toNat = 0x2000 + i.toNat := by decide +kernel
  exact h i

theorem encode_setb_toNat (i : Byte) : (encode (.setb i)).toNat = 0x3000 + i.toNat := by
  have h : ∀ i : Byte, (encode (.setb i)).toNat = 0x3000 + i.toNat := by decide +kernel
  exact h i

/-- The decoder of a port is the decoder of the word, kept to the commands of the port. -/
theorem decode_ok_iff (p : Port) (w : Word) (i : Instr) : decode p w = .ok i ↔ decodeWord w = .ok i ∧ i.port = p := by
  unfold decode Instr.wellFormedOn
  cases decodeWord w with
  | error e => simp
  | ok j =>
    by_cases hj : j.port = p
    · simp only [hj, decide_true, if_true, Except.ok.injEq]
      exact ⟨fun h => ⟨h, h ▸ hj⟩, And.left⟩
    · simp only [hj, decide_false, Bool.false_eq_true, if_false, reduceCtorEq, Except.ok.injEq, false_iff]
      rintro ⟨rfl, h⟩
      exact hj h

end Sys2Proof
end

