-- ==== Sys2Proof/Laws/PerInstr.lean ====
section
/-! SUPPORT. The family of per-instruction laws: the word of every command fits a row of the opcode table on its own port. -/

namespace Sys2Proof.Laws.TableRow

/-- The word of the command matches a row of the opcode table, on the port that carries the command (R71). -/
def Statement (i : Instr) : Prop := ∃ r ∈ opcodeTable, r.port = i.port ∧ r.fits (encode i) = true

theorem tick (l : ButtonLevel) : Statement (.tick l) := by
  have h : ∀ l : ButtonLevel, rowTick.fits (encode (.tick l)) = true := by decide
  exact ⟨rowTick, by simp [opcodeTable], rfl, h l⟩

theorem setc (i : Byte) : Statement (.setc i) := by
  have h : ∀ i : Byte, rowSetc.fits (encode (.setc i)) = true := by decide +kernel
  exact ⟨rowSetc, by simp [opcodeTable], rfl, h i⟩

theorem setb (i : Byte) : Statement (.setb i) := by
  have h : ∀ i : Byte, rowSetb.fits (encode (.setb i)) = true := by decide +kernel
  exact ⟨rowSetb, by simp [opcodeTable], rfl, h i⟩

end Sys2Proof.Laws.TableRow
end

