-- ==== Sys2Proof/Laws/Ports.lean ====
section
/-! SUPPORT. The ports and the step: which operation can come next, said once, so that a fact about every step is one about
every operation; and that no command writes the configuration or anything at the ports. -/

namespace Sys2Proof.Machine

/-- `t` is `s` but for the words and the turns at the ports. -/
abbrev DiffersAtPorts (s t : State) : Prop :=
  ∃ ts ws hs, t = { s with turns := ts, tickWords := ws, hostWords := hs }

/-- What is known of the next operation: which turn it used up, and that choosing it touches the ports alone. -/
abbrev Operation.From (s : State) : Operation → Prop
  | .rest t => DiffersAtPorts s t ∧ t.turns = s.turns.tail ∧ t.tickWords = s.tickWords ∧ t.hostWords = s.hostWords
  | .reset t => DiffersAtPorts s t ∧ s.turns = .reset :: t.turns
  | .ignored _ t => DiffersAtPorts s t ∧ ∃ p, s.turns = .port p :: t.turns
  | .stalled i t => DiffersAtPorts s t ∧ s.turns = .port .hostPort :: t.turns ∧ i.port = .hostPort ∧ s.fsm ≠ .idle
  | .accepted i t =>
    DiffersAtPorts s t ∧ s.turns = .port i.port :: t.turns ∧ (i.port = .hostPort → s.fsm = .idle)

theorem tickPortTurn_from (s : State) (ts : List Turn) (h : s.turns = .port .tickPort :: ts) :
    (tickPortTurn (s.setTurns ts)).From s := by
  unfold tickPortTurn
  cases s with | mk c ph cn f ci bi si sl cu tw hw tn tr
  cases tw with
  | nil => exact ⟨⟨_, _, _, rfl⟩, by rw [h]; rfl, rfl, rfl⟩
  | cons w ws =>
    simp only [State.setTurns]
    split
    · exact ⟨⟨_, _, _, rfl⟩, _, h⟩
    · rename_i hd
      have hp := ((decode_ok_iff _ _ _).mp hd).2
      exact ⟨⟨_, _, _, rfl⟩, by rw [hp]; exact h, by rw [hp]; simp⟩

theorem hostPortTurn_from (s : State) (ts : List Turn) (h : s.turns = .port .hostPort :: ts) :
    (hostPortTurn (s.setTurns ts)).From s := by
  unfold hostPortTurn
  cases s with | mk c ph cn f ci bi si sl cu tw hw tn tr
  cases hw with
  | nil => exact ⟨⟨_, _, _, rfl⟩, by rw [h]; rfl, rfl, rfl⟩
  | cons w ws =>
    simp only [State.setTurns]
    split
    · exact ⟨⟨_, _, _, rfl⟩, _, h⟩
    · rename_i hd
      have hp := ((decode_ok_iff _ _ _).mp hd).2
      cases f with
      | idle => exact ⟨⟨_, _, _, rfl⟩, by rw [hp]; exact h, fun _ => rfl⟩
      | hold => exact ⟨⟨_, _, _, rfl⟩, h, hp, by simp⟩
      | relwait => exact ⟨⟨_, _, _, rfl⟩, h, hp, by simp⟩

/-- Everything that can come next: the one inversion lemma of the ports. -/
theorem nextOperation_from (s : State) : (nextOperation s).From s := by
  unfold nextOperation
  cases h : s.turns with
  | nil => exact ⟨⟨_, _, _, rfl⟩, by rw [h]; rfl, rfl, rfl⟩
  | cons t ts =>
    match t with
    | .reset => exact ⟨⟨_, _, _, rfl⟩, h⟩
    | .port .tickPort => exact tickPortTurn_from s ts h
    | .port .hostPort => exact hostPortTurn_from s ts h

/-- A step that answers a next state: a command accepted at a state that differs at the ports alone, a reset of such a state,
or such a state itself. -/
theorem step_cases {s t : State} (h : step s = .next t) :
    (∃ i u, DiffersAtPorts s u ∧ s.turns = .port i.port :: u.turns ∧ (i.port = .hostPort → s.fsm = .idle) ∧
      exec i u = .next t) ∨
    (∃ u, DiffersAtPorts s u ∧ s.turns = .reset :: u.turns ∧ t = doReset u) ∨
    DiffersAtPorts s t := by
  have H := nextOperation_from s
  unfold step at h
  cases ho : nextOperation s with
  | accepted i u => rw [ho] at h H; exact .inl ⟨i, u, H.1, H.2.1, H.2.2, h⟩
  | reset u => rw [ho] at h H; exact .inr (.inl ⟨u, H.1, H.2, (withConfig_eq_next.mp h).2.symm⟩)
  | rest u => rw [ho] at h H; exact .inr (.inr ((withConfig_eq_next.mp h).2 ▸ H.1))
  | ignored e u => rw [ho] at h H; exact .inr (.inr ((withConfig_eq_next.mp h).2 ▸ H.1))
  | stalled i u => rw [ho] at h H; exact .inr (.inr ((withConfig_eq_next.mp h).2 ▸ H.1))

end Sys2Proof.Machine
end

