-- ==== Sys2Proof/Laws/Runs.lean ====
section
/-! SUPPORT. Runs: the sequencing of outcomes, so that a fact about a run is one about its parts. -/

namespace Sys2Proof.Machine

@[simp] theorem andThen_next (s : State) (k : State → Out) : andThen (.next s) k = k s := rfl

@[simp] theorem andThen_fault (f : Fault) (k : State → Out) : andThen (.fault f) k = .fault f := rfl

@[simp] theorem andThen_refused (r : Refusal) (k : State → Out) : andThen (.refused r) k = .refused r := rfl

theorem andThen_eq_next {o : Out} {k : State → Out} {t : State} :
    andThen o k = .next t ↔ ∃ s, o = .next s ∧ k s = .next t := by
  cases o <;> simp

theorem andThen_assoc (o : Out) (k l : State → Out) : andThen (andThen o k) l = andThen o fun s => andThen (k s) l := by
  cases o <;> rfl

/-- A run of a first and a second list of commands is a run of the first and then of the second. -/
theorem runCommands_append (is js : List Instr) (s : State) :
    runCommands (is ++ js) s = andThen (runCommands is s) (runCommands js) := by
  induction is generalizing s with
  | nil => rfl
  | cons i is ih =>
    simp only [List.cons_append, runCommands, andThen_assoc]
    cases exec i s with
    | next t => exact ih t
    | fault f => rfl
    | refused r => rfl

/-- A run is observed only under an admitted configuration, the run of no operations included (log entry 17). -/
theorem observe_of_not_admitted {c : Config} (h : c.admitted = false) (ops : List Accepted) : observe c ops = none := by
  have hr : (State.resetWith c).cfg.admitted = false := h
  simp only [observe, withConfig_of_not_admitted hr, andThen_refused]

/-- What is observed of a run that answers `t` is the events of `t` and `t` itself (R234 (a), (b)). -/
theorem observe_of_run {c : Config} (h : c.admitted = true) {ops : List Accepted} {t : State}
    (ht : runAccepted ops (State.resetWith c) = .next t) : observe c ops = some ⟨t.trace, t⟩ := by
  have hr : (State.resetWith c).cfg.admitted = true := h
  simp only [observe, withConfig_of_admitted hr, andThen_next, ht]

/-- The run of no operations emits no event and ends in the state after reset (R234). -/
theorem observe_nil {c : Config} (h : c.admitted = true) : observe c [] = some ⟨[], State.resetWith c⟩ :=
  observe_of_run (ops := []) (t := State.resetWith c) h rfl

end Sys2Proof.Machine
end

