-- ==== Sys2Proof/Tests/Slice0.lean ====
section
/-! SUPPORT. The model's own tests. Expected values are those of spec/95_test_vectors.md and the rules, evaluated with the
table of `rampSine`, S[i] = i + 100. First the checks that refuse, then words and single steps, then for each statement with
hypotheses a witness that meets them. -/

namespace Sys2Proof.Tests

-- One theorem after another: the many small kernel evaluations below would otherwise each wait in a thread of its own.
set_option Elab.async false

open Sys2Proof.Machine

/-! ## Test configurations -/

/-- A sine table of known entries, S[i] = i + 100: the spec's vectors are symbolic in the table. -/
def rampSine : Vector Byte 128 := ⟨((List.range 128).map fun i => BitVec.ofNat 8 (i + 100)).toArray, by simp⟩

/-- TC (92_eei_decisions.md D32) with that table. -/
def tc : Config := { resetConfig with sineLut := rampSine, ledCount := 3, msWidth := 32 }

/-- TC-CAP (92_eei_decisions.md D32). -/
def tcCap : Config :=
  { tc with plan := [.cycling [64, 48, 32], .custom 0, .custom 1], nSlots := 2, longAction := .capture }

/-- Four channels, brightness from the phase, floor and gamma on. -/
def tcPhase : Config :=
  { tc with
    nch := 4, brightSrc := .phase, gammaEn := true, floorEn := true,
    plan := [.cycling [64, 48, 32, 16], .fixed 255 147 41] }

/-- `LONG_TH` = 255 = `CNT_MAX` (R168, last paragraph). -/
def tcSlow : Config := { tc with longMs := 51000 }

/-- 256 plans, levels and slots. -/
def tcFull : Config :=
  { tc with plan := List.replicate 256 (.custom 255), level := List.replicate 256 32, nSlots := 256,
            longAction := .capture }

/-- A state in the phases of the vectors of 95_test_vectors.md section 2.9. -/
def mk (c : Config) (f : Fsm) (cnt cidx bidx : Byte) : State :=
  { State.resetWith c with
    fsm := f, cnt := cnt, cidx := cidx, bidx := bidx, phase := ⟨320, 240, 160, 0⟩, cur := ⟨101, 100, 100, 1⟩ }

/-- The word first at tick_port, and its turn. -/
def atTick (w : Word) (s : State) : State := { s with tickWords := [w, 0x1000], turns := [.port .tickPort, .reset] }

/-- The word first at host_port, and its turn. -/
def atHost (w : Word) (s : State) : State := { s with hostWords := [w, 0x2000], turns := [.port .hostPort, .reset] }

/-- The outcome is a next state of which `p` holds. -/
def nextIs (p : State → Bool) : Out → Bool
  | .next t => p t
  | .fault _ => false
  | .refused _ => false

/-- The states agree in every field but the configuration (whose tables take long to compare). -/
def same (t u : State) : Bool :=
  t.phase == u.phase && t.cnt == u.cnt && t.fsm == u.fsm && t.cidx == u.cidx && t.bidx == u.bidx && t.sidx == u.sidx &&
    t.slot == u.slot && t.cur == u.cur && t.tickWords == u.tickWords && t.hostWords == u.hostWords &&
    t.turns == u.turns && t.trace == u.trace

/-- The outcome is the refusal of a configuration. -/
def isRefused : Out → Bool
  | .next _ => false
  | .fault _ => false
  | .refused r => r == .configNotWellFormed

theorem exists_next_of {p : State → Bool} {o : Out} (h : nextIs p o = true) : ∃ t, o = .next t ∧ p t = true := by
  cases o with
  | next t => exact ⟨t, rfl, h⟩
  | fault f => cases h
  | refused r => cases h

/-! ## WellFormed: each check refuses an ill-formed configuration by itself -/

/-- All checks of R7 but the named one pass, and the configuration is refused, by a step too. -/
def refusedOnly (c : Config) (bad : Config → Bool) (good : List (Config → Bool)) : Bool :=
  !bad c && good.all (fun f => f c) && !c.wellFormed && isRefused (step (State.resetWith c))

theorem test_admitted_tc : tc.admitted = true ∧ tcCap.admitted = true ∧ tcPhase.admitted = true ∧
    tcSlow.admitted = true ∧ tcFull.admitted = true ∧ resetConfig.admitted = true := by decide +kernel

theorem test_nch_refused : refusedOnly { tc with nch := 5, plan := [.fixed 0 0 0] } Config.nchOk
    [Config.brightSrcOk, Config.countsOk, Config.incrementsOk, Config.slotsOk, Config.captureOk, Config.thresholdsOk,
      Config.gammaOk] = true := by decide +kernel

theorem test_brightSrc_refused : refusedOnly { tc with brightSrc := .phase } Config.brightSrcOk
    [Config.nchOk, Config.countsOk, Config.incrementsOk, Config.slotsOk, Config.captureOk, Config.thresholdsOk,
      Config.gammaOk] = true := by decide +kernel

theorem test_counts_refused :
    ([{ tc with plan := [] }, { tc with level := [] }, { tc with plan := List.replicate 257 (.fixed 0 0 0) },
      { tc with level := List.replicate 257 0 }].all fun c => refusedOnly c Config.countsOk
        [Config.nchOk, Config.brightSrcOk, Config.incrementsOk, Config.slotsOk, Config.captureOk, Config.thresholdsOk,
          Config.gammaOk]) = true := by decide +kernel

theorem test_increments_refused : refusedOnly { tc with plan := [.cycling [1, 2]] } Config.incrementsOk
    [Config.nchOk, Config.brightSrcOk, Config.countsOk, Config.slotsOk, Config.captureOk, Config.thresholdsOk,
      Config.gammaOk] = true := by decide +kernel

theorem test_slots_refused : refusedOnly { tcCap with plan := [.custom 1, .custom 2] } Config.slotsOk
    [Config.nchOk, Config.brightSrcOk, Config.countsOk, Config.incrementsOk, Config.captureOk, Config.thresholdsOk,
      Config.gammaOk] = true := by decide +kernel

theorem test_capture_refused : refusedOnly { tc with longAction := .capture } Config.captureOk
    [Config.nchOk, Config.brightSrcOk, Config.countsOk, Config.incrementsOk, Config.slotsOk, Config.thresholdsOk,
      Config.gammaOk] = true := by decide +kernel

theorem test_thresholds_refused :
    ([{ tc with longMs := 1199 }, { tc with periodMs := 0 }].all fun c => refusedOnly c Config.thresholdsOk
        [Config.nchOk, Config.brightSrcOk, Config.countsOk, Config.incrementsOk, Config.slotsOk, Config.captureOk,
          Config.gammaOk]) = true := by decide +kernel

theorem test_gamma_refused :
    ([{ tc with gammaLut := identityGamma.set 0 1 }, { tc with gammaLut := identityGamma.set 255 254 },
      { tc with gammaLut := identityGamma.set 100 98 }].all fun c => refusedOnly c Config.gammaOk
        [Config.nchOk, Config.brightSrcOk, Config.countsOk, Config.incrementsOk, Config.slotsOk, Config.captureOk,
          Config.thresholdsOk]) = true := by decide +kernel

theorem test_wrong_port_refused : Instr.wellFormedOn .hostPort (.tick 0) = false ∧
    Instr.wellFormedOn .tickPort (.setc 0) = false ∧ Instr.wellFormedOn .tickPort (.setb 0) = false := by decide

/-- Initial indices beyond the last plan or level are refused by every step, and the last valid ones are not (R25, R26). -/
theorem test_init_out_of_range :
    ([{ tc with cidxInit := 5 }, { tc with bidxInit := 3 }].all fun c =>
      c.wellFormed && !c.initInRange && isRefused (step (State.resetWith c)) &&
        isRefused (exec (.tick 1) (State.resetWith c))) = true ∧
    Config.admitted { tc with cidxInit := 4, bidxInit := 2 } = true := by decide +kernel

/-- The run of no operations is observed under TC and not under a configuration that is refused (log entry 17). -/
theorem test_observe_empty_run :
    observe tc [] = some ⟨[], State.resetWith tc⟩ ∧ observe { tc with nch := 5 } [] = none ∧
    observe { tc with cidxInit := 5 } [] = none := by decide +kernel

/-! ## Words (R71, 95_test_vectors.md section 2.1) -/

theorem test_decode_tick : decode .tickPort 0b0001_0000_0000_0000 = .ok (.tick 0) ∧
    decode .tickPort 0b0001_0000_0000_0001 = .ok (.tick 1) ∧
    decode .tickPort 0b0001_0000_0000_0010 = .error .tickArgument ∧
    decode .tickPort 0b0001_0001_0000_0000 = .error .reservedField ∧
    decode .hostPort 0b0001_0000_0000_0001 = .error .tickOnHostPort := by decide

theorem test_decode_setc : decode .hostPort 0b0010_0000_0110_0011 = .ok (.setc 99) ∧
    decode .hostPort 0b0010_0000_1111_1111 = .ok (.setc 255) ∧
    decode .hostPort 0b0010_0001_0000_0100 = .error .reservedField ∧
    decode .tickPort 0b0010_0000_0000_0001 = .error .hostCommandOnTickPort := by decide

theorem test_decode_setb : decode .hostPort 0b0011_0000_0000_0010 = .ok (.setb 2) ∧
    decode .hostPort 0b0011_0000_1000_0000 = .ok (.setb 128) ∧
    decode .tickPort 0b0011_0000_0000_0010 = .error .hostCommandOnTickPort := by decide

theorem test_decode_reserved : decode .hostPort 0x0000 = .error .reservedOp ∧ decode .hostPort 0x4000 = .error .reservedOp ∧
    decode .hostPort 0xF0FF = .error .reservedOp := by decide

theorem test_encode : encode (.tick 1) = 0x1001 ∧ encode (.setc 4) = 0x2004 ∧ encode (.setb 2) = 0x3002 := by decide

/-- The lines of R79 as text: a comment, a hexadecimal operand, an operand out of range and a lower-case mnemonic. -/
theorem test_readLine :
    readLine ['S', 'E', 'T', 'C', ' ', '0', 'x', '6', '3', ';', 'n'] = some (.setc 99) ∧
    readLine ['T', 'I', 'C', 'K', '.', 'R'] = some .tickR ∧
    readLine ['T', 'A', 'P', '\t', '5'] = some (.tap 5) ∧
    readLine ['.', 'W', 'O', 'R', 'D', ' ', '0', 'x', '1', '1', '0', '1'] = some (.word 0x1101) ∧
    readLine ['S', 'E', 'T', 'B', ' ', '2', '5', '6'] = none ∧ readLine ['t', 'i', 'c', 'k', ' ', '1'] = none := by decide

/-- The gate of R232: 200 ms after the last TICK across the clock's wrap, and not at 199 ms. -/
theorem test_gate : gateOpen { tc with msWidth := 8 } ⟨100⟩ 44 = true ∧ gateOpen { tc with msWidth := 8 } ⟨100⟩ 43 = false ∧
    (pollTickSource tc ⟨0⟩ .idle 200).1 = true ∧ (pollTickSource tc ⟨0⟩ .hold 1).1 = true := by decide +kernel

/-! ## Single steps (95_test_vectors.md sections 2.7 to 2.9) -/

/-- (IDLE, 5, ..., c) with TICK 0 gives F0 and (HOLD, 6, ..., c), with the phases and `cur` unchanged. -/
theorem test_tick_enters_hold : nextIs (same { mk tc .hold 6 0 0 with trace := [.frame ⟨0, 0, 0, 0⟩] })
    (exec (.tick 0) (mk tc .idle 5 0 0)) = true := by decide +kernel

/-- (HOLD, 25, 0, 0, 320/240/160, c) with TICK 1 gives Report(COLOR, 1), F(S[1], S[0], S[0], 1) and
(IDLE, 0, 1, 0, 336/252/168, that tuple). -/
theorem test_tick_short_press : nextIs (same { mk tc .idle 0 1 0 with
      phase := ⟨336, 252, 168, 0⟩, trace := [.report .color 1, .frame ⟨101, 100, 100, 1⟩] })
    (exec (.tick 1) (mk tc .hold 25 0 0)) = true := by decide +kernel

/-- SETC 4 in IDLE gives cidx = 4 and no event. -/
theorem test_setc_step : nextIs (same (mk tc .idle 0 4 0))
    (step ((mk tc .idle 0 0 0).withFetchWord 16 0x2004)) = true := by decide +kernel

/-- SETC 5 is ignored; SETC 4 in HOLD is stalled, and its word stays. -/
theorem test_setc_ignored_and_stalled : nextIs (same (mk tc .idle 0 0 0))
      (step ((mk tc .idle 0 0 0).withFetchWord 16 0x2005)) = true ∧
    nextIs (same { mk tc .hold 6 0 0 with hostWords := [0x2004] })
      (step ((mk tc .hold 6 0 0).withFetchWord 16 0x2004)) = true := by decide +kernel

/-- SETB 2 gives bidx = 2, no event and no frame. -/
theorem test_setb_step : nextIs (same (mk tc .idle 0 0 2))
    (step ((mk tc .idle 0 0 0).withFetchWord 16 0x3002)) = true := by decide +kernel

/-- SETB 3 is ignored. -/
theorem test_setb_ignored : nextIs (same (mk tc .idle 0 0 2))
    (step ((mk tc .idle 0 0 2).withFetchWord 16 0x3003)) = true := by decide +kernel

/-- Section 2.7, third row: Cycling(1,1,1) from 0xFFFF, 0x00FF, 0x7FFF with bidx = 2. -/
theorem test_anim_wraps :
    let t := anim { mk tc .idle 0 3 2 with phase := ⟨0xFFFF, 0x00FF, 0x7FFF, 0⟩ }
    t.phase = ⟨0x0000, 0x0100, 0x8000, 0⟩ ∧ t.cur = ⟨100, 101, 100, 17⟩ := by decide +kernel

/-- Section 2.8: CAPTURE in TC-CAP with sidx = 1: two flashes, sidx = 0. -/
theorem test_capture :
    let t := capture { mk tcCap .hold 26 0 0 with sidx := 1 }
    t.slot.readTuple (slotAddr 1) = ⟨101, 100, 100, 1⟩ ∧ t.sidx = 0 ∧
    t.trace = [.frame ⟨101, 100, 100, 1⟩, .frame ⟨0, 0, 0, 0⟩, .frame ⟨101, 100, 100, 1⟩, .frame ⟨0, 0, 0, 0⟩] := by
  decide +kernel

/-- Section 2.8: ADVANCE_BRIGHT wraps from 2 to 0, reports 0 and renders at the level 11 & 0x31 = 1. -/
theorem test_advanceBright_wraps :
    let t := advanceBright { mk tc .hold 26 0 2 with cur := ⟨9, 8, 7, 17⟩ }
    t.bidx = 0 ∧ t.cur = ⟨9, 8, 7, 1⟩ ∧ t.trace = [.report .bright 0, .frame ⟨9, 8, 7, 1⟩] := by decide +kernel

/-- Sections 2.4 to 2.6: S[idx] = 241 with the floor gives 0, and 247 >> 3 = 30. -/
theorem test_floor_and_shift : floorOf tcPhase 241 = 0 ∧ floorOf tc 241 = 241 ∧
    brightOf { mk { tcPhase with sineLut := rampSine.set 2 247 } .idle 0 0 0 with phase := ⟨0, 0, 0, 0x02FF⟩ } = 30 := by
  decide +kernel

/-! ## Witnesses: for each statement with hypotheses, states and operands that meet them, with each clause at a boundary -/

theorem witness_DecoderFollowsMatchAndMask :
    ((0x1000 : Word) &&& 0xFFFE = 0x1000 ∧ (0x1001 : Word) &&& 0xFFFE = 0x1000) ∧
    ((0x2000 : Word) &&& 0xFF00 = 0x2000 ∧ (0x20FF : Word) &&& 0xFF00 = 0x2000) ∧
    ((0x3000 : Word) &&& 0xFF00 = 0x3000 ∧ (0x30FF : Word) &&& 0xFF00 = 0x3000) ∧
    decode .tickPort 0x1001 = .ok (.tick 1) ∧ decode .hostPort 0x30FF = .ok (.setb 255) := by decide

/-- Both ports, in HOLD, with one word for each reason of R75. -/
theorem witness_IgnoredWordsHaveNoEffect :
    (mk tc .hold 6 0 0).cfg.admitted = true ∧
    decode .tickPort 0xF000 = .error .reservedOp ∧ decode .tickPort 0x1801 = .error .reservedField ∧
    decode .tickPort 0x1080 = .error .tickArgument ∧ decode .hostPort 0x1000 = .error .tickOnHostPort ∧
    decode .tickPort 0x3000 = .error .hostCommandOnTickPort ∧
    nextIs (fun t => t.hostWords == [0x2000] && t.fsm == .hold) (step (atHost 0x1000 (mk tc .hold 6 0 0))) = true := by
  decide +kernel

theorem witness_StepRunsTheDecodedCommand :
    (atTick 0x1001 (mk tc .relwait 0 0 0)).turns = [.port .tickPort, .reset] ∧
    decode .tickPort 0x1001 = .ok (.tick 1) ∧
    (atHost 0x20FF (mk tc .idle 0 0 0)).turns = [.port .hostPort, .reset] ∧ decode .hostPort 0x20FF = .ok (.setc 255) ∧
    (atHost 0x20FF (mk tc .idle 0 0 0)).fsm = .idle := by decide +kernel

theorem witness_PresentedWordRunsNext :
    (decode (Instr.tick 0).port 0x1000 = .ok (.tick 0) ∧ (mk tc .hold 6 0 0).fsm ≠ .idle) ∧
    decode (Instr.setb 255).port 0x30FF = .ok (.setb 255) ∧ (mk tc .idle 5 0 0).fsm = .idle := by decide +kernel

/-- Each clause: a TICK and an ignored word in HOLD, a SETC accepted in IDLE and stalled in HOLD, and the two ways back to
IDLE. -/
theorem witness_HostCommandWaitsForIdle :
    (atTick 0x1000 (mk tc .hold 25 0 0)).Inv ∧ (atHost 0x0000 (mk tc .hold 6 0 0)).Inv ∧
    (atHost 0x2004 (mk tc .idle 5 0 0)).Inv ∧ (atHost 0x2004 (mk tc .relwait 0 0 0)).Inv ∧
    decode .hostPort 0x0000 = .error .reservedOp ∧ decode .hostPort 0x2004 = .ok (.setc 4) ∧
    nextIs (fun t => t.fsm == .idle) (step (atTick 0x1001 (mk tc .hold 25 0 0))) = true ∧
    nextIs (fun t => t.fsm == .idle) (step { mk tc .relwait 0 0 0 with turns := [.reset] }) = true := by
  and_intros <;> decide +kernel

theorem witness_PseudoInstructionsExpandToTicks :
    asmWords tc (.tap 5) = some [0x1000, 0x1000, 0x1000, 0x1000, 0x1000, 0x1001] ∧ asmWords tc (.tap 6) = none ∧
    asmWords tc (.tap 0) = none ∧ asmWords tc (.hold 0) = some [] ∧
    asmWords tc .shortPress = some (List.replicate 6 0x1000 ++ [0x1001]) := by decide +kernel

theorem witness_OnlyWellFormedConfigurationsRun :
    (State.resetWith { tc with longMs := 1199 }).cfg.wellFormed = false ∧ tc.wellFormed = true := by decide +kernel

/-- Reset during HOLD, with a slot captured and a SETC waiting, whose turn follows. -/
theorem witness_ResetInputRestoresResetValues :
    let s : State :=
      { mk tcCap .hold 25 2 0 with sidx := 1, slot := [(0, 7), (6, 8)], hostWords := [0x2001],
                                   turns := [.reset, .port .hostPort] }
    s.cfg.admitted = true ∧ decode .hostPort 0x2001 = .ok (.setc 1) ∧
    nextIs (fun t => t.slot == [] && t.cnt == 0 && t.hostWords == [0x2001]) (step s) = true := by decide +kernel

theorem witness_ResetStateMeetsTheInvariant :
    tcCap.wellFormed = true ∧ tcCap.cidxInit = 0 ∧ tcCap.bidxInit = 0 ∧
    { tc with cidxInit := 4, bidxInit := 2 : Config }.admitted = true := by decide +kernel

/-- `SHORT_TH` = 1, the least the statement admits. -/
theorem witness_FirstTickAfterResetAnimates :
    { tc with shortMs := 200 : Config }.admitted = true ∧ { tc with shortMs := 200 : Config }.shortTh = 1 := by decide +kernel

theorem witness_ThresholdsAreQuotients : tc.periodMs = 200 ∧ tc.shortMs = 1000 ∧ tc.longMs = 5000 := by decide

/-- The invariant at both ends of the counter in IDLE and HOLD, and steps of each kind of command and of reset from it. -/
theorem witness_StepKeepsTheInvariant :
    (atTick 0x1000 (mk tc .idle 5 4 2)).Inv ∧ (atTick 0x1000 (mk tc .hold 6 0 0)).Inv ∧
    (atTick 0x1000 (mk tcCap .hold 25 2 2)).Inv ∧ (mk tc .relwait 0 0 0).Inv ∧
    nextIs (fun t => t.fsm == .relwait) (step (atTick 0x1000 (mk tcCap .hold 25 2 2))) = true ∧
    nextIs (fun t => t.cidx == 4) (step (atHost 0x2004 (mk tc .idle 5 0 0))) = true ∧
    nextIs (fun t => t.bidx == 0) (step { mk tc .idle 5 0 2 with turns := [.reset] }) = true := by
  and_intros <;> decide +kernel

/-- Also where the indices are at or beyond their ends. -/
theorem witness_NoOperationFails :
    (atTick 0x1000 (mk tcCap .hold 25 2 2)).cfg.admitted = true ∧
    (atTick 0x1001 (mk tc .idle 0 255 255)).cfg.admitted = true := by decide +kernel

theorem witness_EveryCommandCompletes :
    (mk tc .idle 255 4 2).cfg.admitted = true ∧ (mk tcCap .hold 255 255 2).cfg.admitted = true ∧
    (mk tcPhase .relwait 9 1 2).cfg.admitted = true := by decide +kernel

theorem witness_StepIsAtMostOneOperation :
    (∃ t, step (atTick 0x1000 (mk tc .hold 25 0 0)) = .next t ∧ (t.fsm == .relwait) = true) ∧
    ∃ t, step (atHost 0x2004 (mk tc .hold 25 0 0)) = .next t ∧ (t.hostWords == [0x2004, 0x2000]) = true :=
  ⟨exists_next_of (by decide +kernel), exists_next_of (by decide +kernel)⟩

theorem witness_NothingChangesWithoutACommand :
    { mk tc .hold 6 0 0 with tickWords := [0x1000] : State }.cfg.admitted = true ∧
    { mk tc .hold 6 0 0 with tickWords := [0x1000] : State }.turns = [] := by decide +kernel

/-- A report of each kind, at the wrap of its index. -/
theorem witness_ReportsComeFromAdvancesOnly :
    (∃ t, exec (.tick 1) (mk tc .hold 25 4 0) = .next t ∧ t.trace.contains (.report .color 0) = true) ∧
    ∃ t, exec (.tick 0) (mk tc .hold 25 0 2) = .next t ∧ t.trace.contains (.report .bright 0) = true :=
  ⟨exists_next_of (by decide +kernel), exists_next_of (by decide +kernel)⟩

theorem witness_OnlyAdvanceAndResetWritePhases :
    (atTick 0x1001 (mk tc .idle 0 0 0)).indicesInRange ∧
    { mk tcCap .hold 6 0 0 with slot := [(0, 7)], turns := [.reset] : State }.indicesInRange ∧
    (∃ t, step (atTick 0x1001 (mk tc .idle 0 0 0)) = .next t ∧ (t.phase == ⟨384, 288, 192, 0⟩) = true) ∧
    ∃ t, step { mk tcCap .hold 6 0 0 with slot := [(0, 7)], turns := [.reset] } = .next t ∧
      (t.phase == ⟨0, 0, 0, 0⟩ && t.slot == []) = true :=
  ⟨by decide +kernel, by decide +kernel, exists_next_of (by decide +kernel), exists_next_of (by decide +kernel)⟩

/-- An animation writes `cur`; a capture and a blank do not. -/
theorem witness_CurStaysOrIsTheLastFrame :
    (∃ t, exec (.tick 1) (mk tc .idle 0 4 0) = .next t ∧ (t.cur == ⟨255, 147, 41, 1⟩) = true) ∧
    (∃ t, exec (.tick 0) (mk tcCap .hold 25 0 0) = .next t ∧ (t.cur == ⟨101, 100, 100, 1⟩) = true) ∧
    ∃ t, exec (.tick 0) (mk tc .idle 5 0 0) = .next t ∧ (t.cur == ⟨101, 100, 100, 1⟩) = true :=
  ⟨exists_next_of (by decide +kernel), exists_next_of (by decide +kernel), exists_next_of (by decide +kernel)⟩

theorem witness_PhaseAdvanceWrapsModulo65536 :
    (mk tc .idle 0 0 0).cfg.nch = 3 ∧ (mk tcPhase .idle 0 0 0).cfg.nch = 4 ∧ Channel.b.index < tc.nch ∧
    ¬ Channel.br.index < tc.nch ∧ Channel.br.index < tcPhase.nch := by decide

/-- 0x80 has the period 512, and an increment of 0 the period 1. -/
theorem witness_PhaseLaneLaws : Channel.br.index < 4 ∧ 65536 / Nat.gcd (incOf [0, 0, 0, 0x80] .br).toNat 65536 = 512 ∧
    65536 / Nat.gcd (incOf [0, 0, 0, 0] .br).toNat 65536 = 1 := by decide

/-- The phases 0x0100 and 0x81FF. -/
theorem witness_SineSampleReadsBits14To8 :
    { mk tc .idle 0 0 0 with phase := ⟨0x81FF, 0, 0, 0⟩ : State }.cfg = (mk tc .idle 0 0 0).cfg ∧
    (0x81FF : Word).toNat / 256 % 128 = (0x0100 : Word).toNat / 256 % 128 := ⟨rfl, by decide⟩

theorem witness_FloorWrapsModulo256 :
    tcPhase.floorEn = true ∧ tcPhase.floorVal = 15 ∧ tc.floorEn = false := by decide

theorem witness_GammaKeepsOrderAndEndpoints :
    tcPhase.wellFormed = true ∧ tcPhase.gammaEn = true ∧ (254 : Byte).toNat ≤ (255 : Byte).toNat := by decide +kernel

/-- The level source with each mask and each level named, and the phase source with the shift 3. -/
theorem witness_BrightnessFromLevelOrPhase :
    (∀ b ∈ [(0 : Byte), 1, 2], (mk tc .idle 0 0 b).bidx.toNat < tc.nBright) ∧ tc.brightSrc = .level ∧
    tc.brightMask = 0x31 ∧ tc.level[0]? = some 11 ∧ tc.level[1]? = some 19 ∧ tc.level[2]? = some 31 ∧
    (tcFull.brightSrc = .level ∧ tcFull.level[(255 : Byte).toNat]? = some 32 ∧ (255 : Byte).toNat < tcFull.nBright) ∧
    { tc with brightMask := 0x1F : Config }.brightMask = 0x1F ∧ tcPhase.brightSrc = .phase ∧ tcPhase.brightShift = 3 := by
  decide +kernel

theorem witness_AnimRendersTheActivePlan :
    (mk tcPhase .idle 0 0 2).ready ∧ tcPhase.plan[(0 : Byte).toNat]? = some (.cycling [64, 48, 32, 16]) ∧
    (mk tc .idle 0 4 0).ready ∧ tc.plan[(4 : Byte).toNat]? = some (.fixed 255 147 41) ∧
    (mk tcCap .idle 0 2 0).ready ∧ tcCap.plan[(2 : Byte).toNat]? = some (.custom 1) := by decide +kernel

/-- Two states and two plans that agree on the lane G alone. -/
theorem witness_LanesAreIndependent :
    { mk tc .idle 0 0 0 with phase := ⟨1, 240, 3, 4⟩ : State }.cfg = (mk tc .idle 0 0 0).cfg ∧
    phaseOf (⟨1, 240, 3, 4⟩ : Phases) .g = phaseOf (mk tc .idle 0 0 0).phase .g ∧
    ([9, 48, 7] : List Byte).getD Channel.g.index 0 = ([64, 48, 32] : List Byte).getD Channel.g.index 0 :=
  ⟨rfl, by decide, by decide⟩

/-- The last of 5 and the last of 256 plans. -/
theorem witness_AdvanceColorWrapsAndReports :
    ((mk tc .idle 0 4 0).cidx.toNat < tc.nColor ∧ tc.nColor ≤ 256) ∧
    (mk tcFull .idle 0 255 0).cidx.toNat < tcFull.nColor ∧ tcFull.nColor ≤ 256 := by decide +kernel

theorem witness_AdvanceBrightRendersCurAtNewLevel :
    ((mk tc .idle 0 0 2).bidx.toNat < tc.nBright ∧ tc.nBright ≤ 256) ∧
    (mk tcFull .idle 0 0 255).bidx.toNat < tcFull.nBright ∧ tcFull.nBright ≤ 256 ∧
    (mk tcPhase .idle 0 0 2).bidx.toNat < tcPhase.nBright ∧ tcPhase.brightSrc = .phase := by decide +kernel

/-- The last valid index and the first invalid one. -/
theorem witness_SetcWritesOnlyAValidIndex :
    tc.admitted = true ∧ (mk tc .idle 5 0 0).fsm = .idle ∧ (4 : Byte).toNat ≤ tc.plan.length - 1 ∧
    ¬ (5 : Byte).toNat ≤ tc.plan.length - 1 := by decide +kernel

theorem witness_SetbWritesOnlyAValidIndex :
    tc.admitted = true ∧ (mk tc .idle 5 0 0).fsm = .idle ∧ (2 : Byte).toNat ≤ tc.level.length - 1 ∧
    ¬ (3 : Byte).toNat ≤ tc.level.length - 1 := by decide +kernel

theorem witness_HostCommandsOutsideIdleChangeNothing :
    tc.admitted = true ∧ (mk tc .hold 6 0 0).fsm ≠ .idle ∧ (mk tc .relwait 0 0 0).fsm ≠ .idle := by decide +kernel

/-- A memory with entries in and around the slot, and the last of 256 slots. -/
theorem witness_CaptureStoresCurAndFlashes :
    (Memory.wf [(0, 7), (3, 1), (4, 9)] = true ∧ (1 : Byte).toNat < tcCap.nSlots.val) ∧
    Memory.wf [(1020, 7)] = true ∧ (255 : Byte).toNat < tcFull.nSlots.val := by decide +kernel

theorem witness_IndexLaws :
    (mk tc .idle 5 4 2).ready ∧ tc.nColor ≤ (5 : Byte).toNat ∧ tc.nBright ≤ (3 : Byte).toNat ∧
    (mk tc .idle 5 0 0).fsm = .idle ∧ (mk tc .idle 5 0 0).cnt.toNat = tc.shortTh ∧ tc.shortTh < tc.cntMax.toNat ∧
    (4 : Byte).toNat < tc.nColor := by decide +kernel

theorem witness_SlotReadsBackWholeTuple : Memory.wf [(2, 7), (1023, 1)] = true ∧ (255 : Byte) ≠ 254 := by decide

theorem witness_EqualReadsMeanEqualMemories :
    Memory.wf (Memory.write [(2, 7)] 5 1) = true ∧ Memory.wf [(2, 7), (5, 1)] = true ∧
    Memory.write [(2, 7)] 5 1 = [(2, 7), (5, 1)] ∧ Memory.write [(2, 7), (5, 1)] 5 0 = [(2, 7)] := by decide

/-- The capture of slot 0 and, after it, the plan Custom(0). -/
theorem witness_CapturedTupleIsRecalled :
    (mk tcCap .hold 25 0 0).slot.wf = true ∧ (mk tcCap .hold 25 0 0).sidx.toNat < tcCap.nSlots.val ∧
    tcCap.plan[(1 : Byte).toNat]? = some (.custom (mk tcCap .hold 25 0 0).sidx) ∧
    (capture (mk tcCap .hold 25 0 0)).slot.read 0 = 101 := by decide +kernel

theorem witness_DebounceSaturates :
    (mk tc .idle 254 0 0).cnt.toNat < tc.cntMax.toNat ∧ ¬ (mk tc .idle 255 0 0).cnt.toNat < tc.cntMax.toNat := by decide

/-- Every row of R167 at the boundary of its condition: the counters 4 and 5 in IDLE, 24 and 25 in HOLD. -/
theorem witness_TickFollowsTheTransitionTable :
    (mk tc .idle 5 4 2).cfg.admitted = true ∧
    (satInc tc (mk tc .idle 4 4 2).cnt).toNat ≤ tc.shortTh ∧ tc.shortTh < (satInc tc (mk tc .idle 5 4 2).cnt).toNat ∧
    (mk tc .hold 25 4 2).fsm = .hold ∧ (mk tc .hold 25 4 2).cnt.toNat ≤ tc.longTh ∧
    (satInc tc (mk tc .hold 24 4 2).cnt).toNat ≤ tc.longTh ∧ tc.longTh < (satInc tc (mk tc .hold 25 4 2).cnt).toNat ∧
    (mk tc .relwait 0 4 2).fsm = .relwait := by decide +kernel

theorem witness_LongPressDoesTheConfiguredAction :
    ((mk tc .hold 25 0 2).ready ∧ (mk tc .hold 25 0 2).fsm = .hold ∧ tc.longTh < (satInc tc 25).toNat ∧
      tc.longAction = .advBright ∧ tc.brightSrc = .level) ∧
    ((mk tcPhase .hold 25 0 2).ready ∧ tcPhase.longTh < (satInc tcPhase 25).toNat ∧ tcPhase.longAction = .advBright ∧
      tcPhase.brightSrc = .phase) ∧
    { mk tcCap .hold 25 0 2 with sidx := 1 : State }.ready ∧ tcCap.longTh < (satInc tcCap 25).toNat ∧
      tcCap.longAction = .capture := by decide +kernel

/-- A long press of each action, a short press, entering HOLD and keeping RELWAIT. -/
theorem witness_TickFrame :
    (mk tc .hold 25 0 2).Inv ∧ (mk tc .hold 25 0 2).longPressDue 0 ∧ tc.longAction = .advBright ∧
    (mk tcCap .hold 25 0 2).Inv ∧ (mk tcCap .hold 25 0 2).longPressDue 0 ∧ tcCap.longAction = .capture ∧
    ¬ (mk tc .hold 25 0 2).longPressDue 1 ∧ ¬ (mk tc .hold 24 0 2).longPressDue 0 ∧
    (mk tc .idle 5 0 0).Inv ∧ nextIs (fun t => t.fsm == .hold) (exec (.tick 0) (mk tc .idle 5 0 0)) = true ∧
    (mk tc .relwait 0 0 0).Inv ∧ nextIs (fun t => t.fsm == .relwait) (exec (.tick 0) (mk tc .relwait 0 0 0)) = true := by
  and_intros <;> decide +kernel

/-- The lengths 1, 5, 6, 25 and 26 with the source's thresholds, and 300 where `LONG_TH` = `CNT_MAX`. -/
theorem witness_PressLengthDecidesTheAction :
    (mk tc .idle 0 0 0).cfg.admitted = true ∧ (mk tc .idle 0 0 0).fsm = .idle ∧ (mk tc .idle 0 0 0).cnt = 0 ∧
    1 ≤ tc.shortTh ∧ 5 ≤ tc.shortTh ∧ tc.shortTh < 6 ∧ 25 ≤ tc.longTh ∧ tc.longTh < 26 ∧ tc.longTh < tc.cntMax.toNat ∧
    tcSlow.admitted = true ∧ tcSlow.shortTh < 300 ∧ tcSlow.cntMax.toNat ≤ tcSlow.longTh ∧
    tcSlow.shortTh < tcSlow.cntMax.toNat := by decide +kernel

theorem witness_HeldButtonStopsTheAnimation :
    (mk tc .relwait 0 0 0).cfg.admitted = true ∧ (mk tc .relwait 0 0 0).fsm = .relwait ∧
    (mk tcSlow .hold 255 0 0).cfg.admitted = true ∧ (mk tcSlow .hold 255 0 0).fsm = .hold ∧
    tcSlow.cntMax.toNat ≤ tcSlow.longTh ∧ (mk tcSlow .hold 255 0 0).cnt.toNat ≤ tcSlow.cntMax.toNat := by decide +kernel

/-- The longest HOLD: 20 further samples after its first. -/
theorem witness_HoldIsLeftInBoundedTicks :
    (mk tc .hold 6 0 0).cfg.admitted = true ∧ (mk tc .hold 6 0 0).fsm = .hold ∧ tc.shortTh < (mk tc .hold 6 0 0).cnt.toNat ∧
    (mk tc .hold 6 0 0).cnt.toNat ≤ tc.longTh ∧ tc.longTh < tc.cntMax.toNat ∧
    (List.replicate 20 (0 : ButtonLevel)).length = tc.longTh - tc.shortTh := by decide +kernel

/-- A configuration that is well formed and not admitted, and one that is. -/
theorem witness_InitialIndicesMustBeInRange :
    { tc with cidxInit := 5 : Config }.wellFormed = true ∧ { tc with cidxInit := 5 : Config }.admitted = false ∧
    { tc with cidxInit := 4 : Config }.admitted = true := by decide +kernel

end Sys2Proof.Tests
end

section
/-! R7: the checks of a configuration in the words of the spec, and the refusal of every operation under a configuration that
is not admitted. -/

namespace Sys2Proof

/-- R7 (d) asks a count of increments of the Cycling descriptors alone. -/
theorem Config.incrementsOk_iff (c : Config) :
    c.incrementsOk = true ↔ ∀ inc, Plan.cycling inc ∈ c.plan → inc.length = c.nch := by
  rw [Config.incrementsOk, List.all_eq_true]
  constructor
  · intro h inc hmem
    simpa [Plan.incrementsOk] using h _ hmem
  · intro h d hmem
    cases d with
    | cycling inc => simpa [Plan.incrementsOk] using h inc hmem
    | fixed r g b => rfl
    | custom k => rfl

/-- R7 (e) bounds the slot of the Custom descriptors alone. -/
theorem Config.slotsOk_iff (c : Config) :
    c.slotsOk = true ↔ ∀ k, Plan.custom k ∈ c.plan → k.toNat < c.nSlots.val := by
  rw [Config.slotsOk, List.all_eq_true]
  constructor
  · intro h k hmem
    simpa [Plan.slotOk] using h _ hmem
  · intro h d hmem
    cases d with
    | cycling inc => rfl
    | fixed r g b => rfl
    | custom k => simpa [Plan.slotOk] using h k hmem

/-- The check of neighbours is that the numbers of the list, with the lower bound before them, are sorted. -/
theorem nonDecreasingFrom_iff_sortedLE (lo : Byte) (vs : List Byte) :
    nonDecreasingFrom lo vs = true ↔ ((lo :: vs).map BitVec.toNat).SortedLE := by
  rw [List.sortedLE_iff_isChain]
  induction vs generalizing lo with
  | nil => simp [nonDecreasingFrom]
  | cons v vs ih =>
    rw [nonDecreasingFrom, Bool.and_eq_true, ih, decide_eq_true_eq]
    exact List.isChain_cons_cons.symm

/-- Every byte is at least 0, so from 0 the check is that the numbers of the list are sorted. -/
theorem nonDecreasingFrom_zero_iff_sortedLE (vs : List Byte) :
    nonDecreasingFrom 0 vs = true ↔ (vs.map BitVec.toNat).SortedLE := by
  rw [nonDecreasingFrom_iff_sortedLE, List.sortedLE_iff_pairwise, List.sortedLE_iff_pairwise, List.map_cons,
    List.pairwise_cons]
  exact and_iff_right fun n _ => Nat.zero_le n

/-- R7 (h): the walk over neighbours gives the order of any two entries of the table. -/
theorem Config.gammaOk_iff (c : Config) :
    c.gammaOk = true ↔
      (∀ u v : Fin 256, u ≤ v → c.gammaLut[u].toNat ≤ c.gammaLut[v].toNat) ∧
      c.gammaLut[0] = 0 ∧ c.gammaLut[255] = 255 := by
  have hsorted : (c.gammaLut.toList.map BitVec.toNat).SortedLE ↔
      ∀ u v : Fin 256, u ≤ v → c.gammaLut[u].toNat ≤ c.gammaLut[v].toNat := by
    rw [List.sortedLE_iff_getElem_le_getElem_of_le]
    constructor
    · intro h u v huv
      simpa using h (hi := by simp) (hj := by simp) huv
    · intro h i j hi hj hij
      simpa using h ⟨i, by simpa using hi⟩ ⟨j, by simpa using hj⟩ hij
  simp only [Config.gammaOk, Bool.and_eq_true, beq_iff_eq, nonDecreasingFrom_zero_iff_sortedLE, hsorted, and_assoc]

theorem Config.not_admitted_of_not_wf {c : Config} (h : c.wellFormed = false) : c.admitted = false := by
  simp [Config.admitted, h]

namespace Machine

theorem cfg_eq_of_differsAtPorts {s t : State} (h : DiffersAtPorts s t) : t.cfg = s.cfg := by
  obtain ⟨ts, ws, hs, rfl⟩ := h
  rfl

/-- Every command is refused under a configuration that is not admitted (R7, R10 (d)). -/
theorem exec_of_not_admitted {s : State} (h : s.cfg.admitted = false) (i : Instr) :
    exec i s = .refused .configNotWellFormed := by
  cases i with
  | tick l => exact withConfig_of_not_admitted h _
  | setc k => exact withConfig_of_not_admitted h _
  | setb k => exact withConfig_of_not_admitted h _

/-- Every step is refused under a configuration that is not admitted: the next operation, whichever it is, starts in a state
with the same configuration (R7, R10 (d)). -/
theorem step_of_not_admitted {s : State} (h : s.cfg.admitted = false) :
    step s = .refused .configNotWellFormed := by
  have hcfg {t : State} (ht : DiffersAtPorts s t) : t.cfg.admitted = false := cfg_eq_of_differsAtPorts ht ▸ h
  have hfrom := nextOperation_from s
  unfold step
  generalize nextOperation s = op at hfrom ⊢
  cases op with
  | rest | reset | ignored | stalled => exact withConfig_of_not_admitted (hcfg hfrom.1) _
  | accepted i => exact exec_of_not_admitted (hcfg hfrom.1) i

/-- Settles O9: each check read as its condition of R7, and the refusal of every operation under a configuration that fails
one of them. -/
theorem onlyWellFormedConfigurationsRun : Obligations.OnlyWellFormedConfigurationsRun := by
  unfold Obligations.OnlyWellFormedConfigurationsRun
  constructor
  · intro c
    rw [Config.wellFormed_iff, Config.incrementsOk_iff, Config.slotsOk_iff, Config.gammaOk_iff]
    simp only [Config.nchOk, Config.brightSrcOk, Config.countsOk, Config.captureOk, Config.thresholdsOk,
      decide_eq_true_eq]
    rfl
  · intro s hs
    have hadm := Config.not_admitted_of_not_wf hs
    exact ⟨step_of_not_admitted hadm, exec_of_not_admitted hadm⟩

end Machine
end Sys2Proof
end

section
/-! The Render Sink's side of an event (R36). -/

namespace Sys2Proof.Machine

@[simp] theorem sinkCalls_frame (c : Config) (q : Tuple) :
    sinkCalls c (.frame q) =
      [.beginFrame] ++ List.replicate c.ledCount (.sendColor q) ++ [.endFrame c.ledCount] := rfl

@[simp] theorem sinkCalls_report (c : Config) (k : ReportKind) (i : Byte) : sinkCalls c (.report k i) = [] := rfl

theorem blank_trace (s : State) : (blank s).trace = s.trace ++ [.frame Tuple.zero] := by
  rw [blank_eq]

/-- Settles O32: the sink calls of each kind of event, and the event that a blank appends, whose tuple is zero (R36). -/
theorem frameReachesEveryPosition : Obligations.FrameReachesEveryPosition := by
  unfold Obligations.FrameReachesEveryPosition
  intro c s q k i
  exact ⟨sinkCalls_frame c q, sinkCalls_report c k i, blank_trace s⟩

end Sys2Proof.Machine
end

section
/-! The decoder of each port (R71, R74, R75): the commands it reads, in the fields of the word and in the match and mask of the
opcode table; the words it ignores; and the step that takes an ignored word. -/

namespace Sys2Proof

/-! ## The decoder in the fields of the word -/

/-- A word with `rsv = 0` is the command that its operation names, and a TICK asks for `w[7:1] = 0` too. -/
theorem decodeWord_eq_ok_iff (w : Word) (i : Instr) :
    decodeWord w = .ok i ↔
      rsvField w = 0#4 ∧
        (opField w = opTick ∧ tickRestField w = 0#7 ∧ i = .tick (levelField w) ∨
          opField w = opSetc ∧ i = .setc (argField w) ∨
          opField w = opSetb ∧ i = .setb (argField w)) := by
  unfold decodeWord
  by_cases hrsv : rsvField w = 0#4
  · by_cases htick : opField w = opTick
    · by_cases hrest : tickRestField w = 0#7
      · simp [hrsv, htick, hrest, opTick, opSetc, opSetb, eq_comm]
      · simp [hrsv, htick, hrest, opTick, opSetc, opSetb]
    · by_cases hsetc : opField w = opSetc
      · simp [hrsv, hsetc, opTick, opSetc, opSetb, eq_comm]
      · by_cases hsetb : opField w = opSetb
        · simp [hrsv, hsetb, opTick, opSetc, opSetb, eq_comm]
        · simp [htick, hsetc, hsetb]
  · simp only [BitVec.ofNat_eq_ofNat, ne_eq, hrsv, not_false_eq_true, if_true, false_and, iff_false]
    split_ifs <;> simp

/-- tick_port reads TICK words alone. -/
theorem decode_tickPort_eq_ok_iff (w : Word) (i : Instr) :
    decode .tickPort w = .ok i ↔
      (opField w = opTick ∧ rsvField w = 0 ∧ tickRestField w = 0) ∧ i = .tick (levelField w) := by
  rw [decode_ok_iff, decodeWord_eq_ok_iff]
  cases i with
  | tick l => simp [Instr.port, and_assoc, and_left_comm]
  | setc k => simp [Instr.port]
  | setb k => simp [Instr.port]

/-- host_port reads SETC and SETB words alone. -/
theorem decode_hostPort_eq_ok_iff (w : Word) (i : Instr) :
    decode .hostPort w = .ok i ↔
      (opField w = opSetc ∧ rsvField w = 0) ∧ i = .setc (argField w) ∨
      (opField w = opSetb ∧ rsvField w = 0) ∧ i = .setb (argField w) := by
  rw [decode_ok_iff, decodeWord_eq_ok_iff]
  cases i with
  | tick l => simp [Instr.port]
  | setc k => simp [Instr.port, and_assoc, and_left_comm]
  | setb k => simp [Instr.port, and_assoc, and_left_comm]

/-! ## The decoder in the match and mask of the opcode table -/

/-- A mask of the bits from n up keeps the multiple of `2 ^ n` below a word. -/
theorem and_allOnes_shiftLeft_toNat (w : Word) (n : Nat) :
    (w &&& BitVec.allOnes 16 <<< n).toNat = w.toNat / 2 ^ n * 2 ^ n := by
  have hlt : w.toNat / 2 ^ n * 2 ^ n < 2 ^ 16 := (Nat.div_mul_le_self _ _).trans_lt w.isLt
  rw [← BitVec.shiftLeft_ushiftRight, BitVec.toNat_shiftLeft, BitVec.toNat_ushiftRight, Nat.shiftRight_eq_div_pow,
    Nat.shiftLeft_eq, Nat.mod_eq_of_lt hlt]

/-- The mask 0xFF00 asks for an operation and for `rsv = 0`. -/
theorem and_FF00_eq_iff (w : Word) (op : BitVec 4) :
    w &&& (0xFF00 : Word) = (op.setWidth 16 : Word) <<< 12 ↔ opField w = op ∧ rsvField w = 0 := by
  have hmask : (w &&& 0xFF00).toNat = w.toNat / 256 * 256 := and_allOnes_shiftLeft_toNat w 8
  have hop : ((op.setWidth 16 : Word) <<< 12).toNat = op.toNat * 4096 := by
    rw [BitVec.toNat_shiftLeft, BitVec.toNat_setWidth, Nat.shiftLeft_eq]
    omega
  rw [← BitVec.toNat_inj, ← BitVec.toNat_inj, ← BitVec.toNat_inj, hmask, hop, opField_toNat, rsvField_toNat]
  simp only [BitVec.reduceToNat]
  omega

/-- The mask 0xFFFE of TICK asks for `w[7:1] = 0` too. -/
theorem and_FFFE_eq_iff (w : Word) :
    w &&& 0xFFFE = 0x1000 ↔ opField w = opTick ∧ rsvField w = 0 ∧ tickRestField w = 0 := by
  have hmask : (w &&& 0xFFFE).toNat = w.toNat / 2 * 2 := and_allOnes_shiftLeft_toNat w 1
  rw [← BitVec.toNat_inj, ← BitVec.toNat_inj, ← BitVec.toNat_inj, ← BitVec.toNat_inj, hmask, opField_toNat,
    rsvField_toNat, tickRestField_toNat]
  simp only [opTick, BitVec.reduceToNat]
  omega

theorem decode_tickPort_eq_ok_iff_mask (w : Word) (i : Instr) :
    decode .tickPort w = .ok i ↔ w &&& 0xFFFE = 0x1000 ∧ i = .tick (levelField w) := by
  rw [decode_tickPort_eq_ok_iff, and_FFFE_eq_iff]

theorem decode_hostPort_eq_ok_iff_mask (w : Word) (i : Instr) :
    decode .hostPort w = .ok i ↔
      w &&& 0xFF00 = 0x2000 ∧ i = .setc (argField w) ∨ w &&& 0xFF00 = 0x3000 ∧ i = .setb (argField w) := by
  have hsetc : w &&& 0xFF00 = 0x2000 ↔ opField w = opSetc ∧ rsvField w = 0 := and_FF00_eq_iff w opSetc
  have hsetb : w &&& 0xFF00 = 0x3000 ↔ opField w = opSetb ∧ rsvField w = 0 := and_FF00_eq_iff w opSetb
  rw [decode_hostPort_eq_ok_iff, hsetc, hsetb]

/-- Settles O2: on each port a word decodes exactly when it matches a row of the port, and then to that row's command. -/
theorem decoderFollowsMatchAndMask : Obligations.DecoderFollowsMatchAndMask := by
  unfold Obligations.DecoderFollowsMatchAndMask
  intro w
  refine ⟨fun h => ?_, fun h => ?_, fun h => ?_, fun i h => ?_, fun i h => ?_⟩
  · exact (decode_tickPort_eq_ok_iff_mask w _).mpr ⟨h, rfl⟩
  · exact (decode_hostPort_eq_ok_iff_mask w _).mpr (.inl ⟨h, rfl⟩)
  · exact (decode_hostPort_eq_ok_iff_mask w _).mpr (.inr ⟨h, rfl⟩)
  · exact ((decode_tickPort_eq_ok_iff_mask w i).mp h).1
  · exact ((decode_hostPort_eq_ok_iff_mask w i).mp h).imp And.left And.left

/-! ## The ignored words -/

/-- R75 (a) to (e), in the fields of the word. -/
def Ignorable (p : Port) (w : Word) : Prop :=
  (opField w ≠ opTick ∧ opField w ≠ opSetc ∧ opField w ≠ opSetb) ∨
    rsvField w ≠ 0 ∨
    (opField w = opTick ∧ tickRestField w ≠ 0) ∨
    (p = .hostPort ∧ opField w = opTick) ∨
    (p = .tickPort ∧ (opField w = opSetc ∨ opField w = opSetb))

theorem exists_decode_error_iff (p : Port) (w : Word) :
    (∃ e, decode p w = .error e) ↔ ¬ ∃ i, decode p w = .ok i := by
  cases decode p w <;> simp

theorem exists_decode_tickPort_ok_iff (w : Word) :
    (∃ i, decode .tickPort w = .ok i) ↔ opField w = opTick ∧ rsvField w = 0 ∧ tickRestField w = 0 := by
  simp only [decode_tickPort_eq_ok_iff, exists_and_left, exists_eq, and_true]

theorem exists_decode_hostPort_ok_iff (w : Word) :
    (∃ i, decode .hostPort w = .ok i) ↔ (opField w = opSetc ∨ opField w = opSetb) ∧ rsvField w = 0 := by
  simp only [decode_hostPort_eq_ok_iff, exists_or, exists_and_left, exists_eq, and_true, or_and_right]

/-- With `rsv = 0` each port asks for its own operations, which differ from those of the other port. -/
theorem decode_error_iff_ignorable (p : Port) (w : Word) : (∃ e, decode p w = .error e) ↔ Ignorable p w := by
  rw [exists_decode_error_iff, Ignorable]
  cases p with
  | tickPort =>
    rw [exists_decode_tickPort_ok_iff]
    by_cases hrsv : rsvField w = 0#4
    · by_cases hop : opField w = opTick
      · simp [hrsv, hop, opTick, opSetc, opSetb]
      · simp [hrsv, hop, ← not_or, em']
    · simp [hrsv]
  | hostPort =>
    rw [exists_decode_hostPort_ok_iff]
    by_cases hrsv : rsvField w = 0#4
    · by_cases hop : opField w = opTick
      · simp [hop, opTick, opSetc, opSetb]
      · simp [hrsv, hop]
    · simp [hrsv]

end Sys2Proof

namespace Sys2Proof.Machine

theorem tickPortTurn_of_error {s : State} {w : Word} {ws : List Word} {e : IgnoreReason} (hw : s.tickWords = w :: ws)
    (hd : decode .tickPort w = .error e) : tickPortTurn s = .ignored e (s.setTickWords ws) := by
  simp [tickPortTurn, hw, hd]

theorem hostPortTurn_of_error {s : State} {w : Word} {ws : List Word} {e : IgnoreReason} (hw : s.hostWords = w :: ws)
    (hd : decode .hostPort w = .error e) : hostPortTurn s = .ignored e (s.setHostWords ws) := by
  simp [hostPortTurn, hw, hd]

theorem nextOperation_of_tickPort {s : State} {ts : List Turn} (h : s.turns = .port .tickPort :: ts) :
    nextOperation s = tickPortTurn (s.setTurns ts) := by
  simp [nextOperation, h]

theorem nextOperation_of_hostPort {s : State} {ts : List Turn} (h : s.turns = .port .hostPort :: ts) :
    nextOperation s = hostPortTurn (s.setTurns ts) := by
  simp [nextOperation, h]

/-- A step that ignores a word does no more than take it (R10 (b)). -/
theorem step_of_ignored {s t : State} {e : IgnoreReason} (h : nextOperation s = .ignored e t)
    (hadm : t.cfg.admitted = true) : step s = .next t := by
  rw [step, h]
  exact withConfig_of_admitted hadm t

/-- Settles O4: the words without a command are those of R75 (a) to (e), and the operation that a turn with such a word brings
takes the word and the turn alone. -/
theorem ignoredWordsHaveNoEffect : Obligations.IgnoredWordsHaveNoEffect := by
  unfold Obligations.IgnoredWordsHaveNoEffect
  refine ⟨decode_error_iff_ignorable, fun s ts w ws e hadm => ⟨fun ht hw hd => ?_, fun ht hw hd => ?_⟩⟩
  · have hop : nextOperation s = .ignored e ((s.setTurns ts).setTickWords ws) :=
      (nextOperation_of_tickPort ht).trans (tickPortTurn_of_error hw hd)
    exact step_of_ignored hop hadm
  · have hop : nextOperation s = .ignored e ((s.setTurns ts).setHostWords ws) :=
      (nextOperation_of_hostPort ht).trans (hostPortTurn_of_error hw hd)
    exact step_of_ignored hop hadm

end Sys2Proof.Machine
end

section
/-! The phase lanes (R100, R101, R111): one advance on numbers, repeated advances and their period, and the sine index. -/

namespace Sys2Proof.Machine

/-! ## One advance of a lane -/

theorem advanceLane_of_lt {nch : Nat} {c : Channel} (h : c.index < nch) (inc : List Byte) (p : Word) :
    advanceLane nch inc c p = p + (incOf inc c).setWidth 16 := if_pos h

theorem advanceLane_of_not_lt {nch : Nat} {c : Channel} (h : ¬ c.index < nch) (inc : List Byte) (p : Word) :
    advanceLane nch inc c p = p := if_neg h

/-- R100: a lane below `NCH` adds its increment modulo 65536. -/
theorem advanceLane_toNat {nch : Nat} {c : Channel} (h : c.index < nch) (inc : List Byte) (p : Word) :
    (advanceLane nch inc c p).toNat = (p.toNat + (incOf inc c).toNat) % 65536 := by
  rw [advanceLane_of_lt h, BitVec.toNat_add, BitVec.toNat_setWidth]
  omega

@[simp] theorem phaseOf_advancePhases (nch : Nat) (inc : List Byte) (p : Phases) (c : Channel) :
    phaseOf (advancePhases nch inc p) c = advanceLane nch inc c (phaseOf p c) := by
  cases c <;> rfl

@[simp] theorem phaseAdvance_phase (inc : List Byte) (s : State) :
    (phaseAdvance inc s).phase = advancePhases s.cfg.nch inc s.phase := rfl

/-- Settles O23: each lane by R100's sum or, at an index that is not below `NCH`, held; no other field is written. -/
theorem phaseAdvanceWrapsModulo65536 : Obligations.PhaseAdvanceWrapsModulo65536 := by
  unfold Obligations.PhaseAdvanceWrapsModulo65536
  intro inc s _
  refine ⟨phaseAdvance_eq inc s, fun c => ⟨fun h => ?_, fun h => ?_⟩⟩
  · rw [phaseAdvance_phase, phaseOf_advancePhases, advanceLane_toNat h, incOf]
  · rw [phaseAdvance_phase, phaseOf_advancePhases, advanceLane_of_not_lt h]

/-! ## Several advances -/

theorem advanceLane_comm (nch : Nat) (a b : List Byte) (c : Channel) (p : Word) :
    advanceLane nch a c (advanceLane nch b c p) = advanceLane nch b c (advanceLane nch a c p) := by
  by_cases h : c.index < nch
  · simp only [advanceLane_of_lt h]
    exact add_right_comm _ _ _
  · simp only [advanceLane_of_not_lt h]

theorem advancePhases_comm (nch : Nat) (a b : List Byte) (p : Phases) :
    advancePhases nch a (advancePhases nch b p) = advancePhases nch b (advancePhases nch a p) := by
  simp only [advancePhases, advanceLane_comm nch a b]

theorem advanceLane_advanceLane_toNat {nch : Nat} {c : Channel} (h : c.index < nch) (a b : List Byte) (p : Word) :
    (advanceLane nch b c (advanceLane nch a c p)).toNat =
      (p.toNat + (incOf a c).toNat + (incOf b c).toNat) % 65536 := by
  rw [advanceLane_toNat h, advanceLane_toNat h, Nat.mod_add_mod]

theorem iterate_advanceLane_toNat {nch : Nat} {c : Channel} (h : c.index < nch) (inc : List Byte) (p : Word) (k : Nat) :
    ((advanceLane nch inc c)^[k] p).toNat = (p.toNat + k * (incOf inc c).toNat) % 65536 := by
  induction k with
  | zero =>
    have := p.isLt
    rw [Function.iterate_zero_apply]
    omega
  | succ k ih =>
    rw [Function.iterate_succ_apply', advanceLane_toNat h, ih, Nat.mod_add_mod, Nat.succ_mul, Nat.add_assoc]

/-- The multiples of `n` that vanish modulo `m` are those by the multiples of the additive order of `n`. -/
theorem dvd_mul_iff_div_gcd_dvd {m : Nat} (hm : m ≠ 0) (n k : Nat) : m ∣ k * n ↔ m / n.gcd m ∣ k := by
  rw [Nat.gcd_comm, ← ZMod.addOrderOf_coe n hm, addOrderOf_dvd_iff_nsmul_eq_zero, ← ZMod.natCast_eq_zero_iff,
    Nat.cast_mul, nsmul_eq_mul]

/-- R111 (b): the lane is back at its start exactly when the increments add up to a multiple of 65536. -/
theorem iterate_advanceLane_eq_self_iff {nch : Nat} {c : Channel} (h : c.index < nch) (inc : List Byte) (p : Word)
    (k : Nat) : (advanceLane nch inc c)^[k] p = p ↔ 65536 / (incOf inc c).toNat.gcd 65536 ∣ k := by
  have hp := p.isLt
  rw [← dvd_mul_iff_div_gcd_dvd (by decide), ← BitVec.toNat_inj, iterate_advanceLane_toNat h]
  omega

/-! ## The sine index -/

/-- R101: the index is `(p >> 8) & 0x7F`. -/
theorem sineIndex_toNat (p : Word) : (sineIndex p).toNat = p.toNat / 256 % 128 := by
  rw [sineIndex, BitVec.extractLsb'_toNat, Nat.shiftRight_eq_div_pow]

theorem word_ofInt_toNat (i : Int) : ((BitVec.ofInt 16 i).toNat : Int) = i % 65536 := by
  rw [BitVec.toNat_ofInt]
  exact Int.toNat_of_nonneg (Int.emod_nonneg i (by decide))

/-- R111 (c): `0x8000` in the phase is 128 in the index, which has seven bits. -/
theorem sineIndex_add_0x8000_mul (p : Word) (k : Int) :
    sineIndex (BitVec.ofInt 16 (p.toNat + 0x8000 * k)) = sineIndex p := by
  have hq := word_ofInt_toNat (p.toNat + 0x8000 * k)
  rw [← BitVec.toNat_inj, sineIndex_toNat, sineIndex_toNat]
  omega

/-- Settles O24: the laws of one lane, and of the four lanes together. -/
theorem phaseLaneLaws : Obligations.PhaseLaneLaws := by
  unfold Obligations.PhaseLaneLaws
  refine ⟨advancePhases_comm, fun nch a b c p h => ?_, fun nch inc c p k h => ?_, fun cfg p k => ?_⟩
  · exact advanceLane_advanceLane_toNat h a b p
  · exact iterate_advanceLane_eq_self_iff h inc p k
  · rw [sineIndex_add_0x8000_mul]

end Sys2Proof.Machine
end

section
/-! The animation step (R101 to R108): each part of a rendered tuple by the spec's formula on numbers, and ANIM under each
kind of plan. -/

namespace Sys2Proof

theorem Config.nch_of_wf {c : Config} (h : c.wellFormed = true) : c.nch = 3 ∨ c.nch = 4 := by
  obtain ⟨hnch, -⟩ := c.wellFormed_iff.mp h
  exact of_decide_eq_true hnch

end Sys2Proof

namespace Sys2Proof.Machine

/-! ## The parts of a tuple -/

theorem sineAt_sineIndex (c : Config) (p : Word) : sineAt c (sineIndex p) = sinePoint c p := by
  simp [sineAt, sinePoint, sineIndex_toNat]

theorem sineSample_eq_sinePoint (s : State) (c : Channel) : sineSample s c = sinePoint s.cfg (phaseOf s.phase c) :=
  sineAt_sineIndex _ _

theorem gammaOf_eq_gammaPoint (c : Config) (v : Byte) : gammaOf c v = gammaPoint c v := by
  have hv : v.toNat % 256 = v.toNat := Nat.mod_eq_of_lt v.isLt
  simp [gammaOf, gammaPoint, gammaAt, hv]

/-- R102: the sum of two bytes wraps modulo 256. -/
theorem floorOf_eq (c : Config) (v : Byte) :
    floorOf c v = if c.floorEn then BitVec.ofNat 8 ((v.toNat + c.floorVal.toNat) % 256) else v := by
  have hsum : v + c.floorVal = BitVec.ofNat 8 ((v.toNat + c.floorVal.toNat) % 256) := by
    rw [← BitVec.toNat_inj, BitVec.toNat_add, BitVec.toNat_ofNat, Nat.mod_mod]
  rw [floorOf, hsum]

theorem colour_eq_colourPoint (s : State) (c : Channel) : colour s c = colourPoint s.cfg (phaseOf s.phase c) := by
  rw [colour, gammaOf_eq_gammaPoint, floorOf_eq, sineSample_eq_sinePoint, colourPoint]

/-- A right shift of a byte is a quotient by a power of two. -/
theorem ushiftRight_eq_ofNat_div (v : Byte) (n : Nat) : v >>> n = BitVec.ofNat 8 (v.toNat / 2 ^ n) := by
  have hlt : v.toNat / 2 ^ n < 2 ^ 8 := (Nat.div_le_self _ _).trans_lt v.isLt
  rw [← BitVec.toNat_inj, BitVec.toNat_ushiftRight, Nat.shiftRight_eq_div_pow, BitVec.toNat_ofNat, Nat.mod_eq_of_lt hlt]

/-- R104: the masked level, or the sample of the fourth channel divided by `2 ^ BRIGHT_SHIFT`. -/
theorem brightOf_eq_brightPoint {s : State} (h : s.bidx.toNat < s.cfg.nBright) :
    brightOf s = brightPoint s.cfg s.bidx s.phase.br := by
  unfold brightOf brightPoint
  cases s.cfg.brightSrc with
  | level => rw [maskedLevel, activeLevel_eq h]
  | phase => rw [sineSample_eq_sinePoint, ushiftRight_eq_ofNat_div, phaseOf]

/-! ## The phases after an advance -/

theorem advanceLane_eq_phasePoint {nch : Nat} {c : Channel} (h : c.index < nch) (inc : List Byte) (p : Word) :
    advanceLane nch inc c p = phasePoint p (inc.getD c.index 0) := by
  rw [← BitVec.toNat_inj, advanceLane_toNat h, phasePoint, BitVec.toNat_ofNat, Nat.mod_mod, incOf]

/-- With three or four channels the colour lanes advance, and the brightness lane exactly when there are four. -/
theorem advancePhases_eq_phasePoint {nch : Nat} (h : nch = 3 ∨ nch = 4) (inc : List Byte) (p : Phases) :
    advancePhases nch inc p =
      ⟨phasePoint p.r (inc.getD 0 0), phasePoint p.g (inc.getD 1 0), phasePoint p.b (inc.getD 2 0),
        if nch = 4 then phasePoint p.br (inc.getD 3 0) else p.br⟩ := by
  have lane (c : Channel) (hc : c.index < nch) (q : Word) := advanceLane_eq_phasePoint hc inc q
  obtain rfl | rfl := h
  · rw [advancePhases, lane .r (by decide), lane .g (by decide), lane .b (by decide), advanceLane_of_not_lt (by decide)]
    rfl
  · rw [advancePhases, lane .r (by decide), lane .g (by decide), lane .b (by decide), lane .br (by decide)]
    rfl

/-! ## ANIM under each kind of plan -/

theorem anim_of_cycling {s : State} {inc : List Byte} (h : s.cfg.plan[s.cidx.toNat]? = some (.cycling inc)) :
    anim s = animCycling inc s := by
  rw [anim, activePlan_eq h]

theorem anim_of_fixed {s : State} {r g b : Byte} (h : s.cfg.plan[s.cidx.toNat]? = some (.fixed r g b)) :
    anim s = animFixed r g b s := by
  rw [anim, activePlan_eq h]

theorem anim_of_custom {s : State} {k : Byte} (h : s.cfg.plan[s.cidx.toNat]? = some (.custom k)) :
    anim s = animCustom k s := by
  rw [anim, activePlan_eq h]

theorem animCycling_eq {s : State} (h : s.bidx.toNat < s.cfg.nBright) (inc : List Byte) :
    animCycling inc s =
      render ⟨colourPoint s.cfg (phaseAdvance inc s).phase.r, colourPoint s.cfg (phaseAdvance inc s).phase.g,
        colourPoint s.cfg (phaseAdvance inc s).phase.b, brightPoint s.cfg s.bidx (phaseAdvance inc s).phase.br⟩
        (phaseAdvance inc s) := by
  have hbright : brightOf (phaseAdvance inc s) = brightPoint s.cfg s.bidx (phaseAdvance inc s).phase.br :=
    brightOf_eq_brightPoint h
  simp only [animCycling, colour_eq_colourPoint, hbright]
  rfl

theorem animFixed_eq {s : State} (h : s.bidx.toNat < s.cfg.nBright) (r g b : Byte) :
    animFixed r g b s =
      render ⟨gammaPoint s.cfg r, gammaPoint s.cfg g, gammaPoint s.cfg b, brightPoint s.cfg s.bidx s.phase.br⟩ s := by
  simp only [animFixed, gammaOf_eq_gammaPoint, brightOf_eq_brightPoint h]

theorem readSlot_eq {s : State} {k : Byte} (h : k.toNat < s.cfg.nSlots.val) :
    s.readSlot k = s.slot.readTuple (slotAddr k) := if_pos h

/-- Settles O29: the whole state after a RENDER and after a BLANK, whose tuple is zero (R108, R110). -/
theorem renderWritesCurAndBlankDoesNot : Obligations.RenderWritesCurAndBlankDoesNot := by
  unfold Obligations.RenderWritesCurAndBlankDoesNot
  exact fun s q => ⟨render_eq q s, blank_eq s⟩

/-- Settles O30: a Cycling plan by the parts of its tuple at the advanced phases, a Fixed plan by those at the held phases, a
Custom plan by its slot, which R7 (e) keeps in range. -/
theorem animRendersTheActivePlan : Obligations.AnimRendersTheActivePlan := by
  unfold Obligations.AnimRendersTheActivePlan
  rintro s ⟨hadm, -, hbidx, -⟩
  have hwf := Config.wf_of_admitted hadm
  refine ⟨fun inc h => ?_, fun r g b h => ?_, fun k h => ?_⟩
  · rw [anim_of_cycling h, animCycling_eq hbidx, phaseAdvance_phase,
      advancePhases_eq_phasePoint (Config.nch_of_wf hwf), render_eq, phaseAdvance_eq,
      advancePhases_eq_phasePoint (Config.nch_of_wf hwf)]
  · rw [anim_of_fixed h, animFixed_eq hbidx, render_eq]
  · have hk : k.toNat < s.cfg.nSlots.val := Config.slot_of_wf hwf (List.mem_of_getElem? h)
    rw [anim_of_custom h, animCustom, readSlot_eq hk, render_eq]
    rfl

end Sys2Proof.Machine
end

section
/-! The plan selector (R130 to R134): the two advances by modulo, SETC and SETB where they are accepted, and the capture with
the slot that it writes. -/

namespace Sys2Proof.Machine

/-! ## The advances -/

/-- R9, R130, R131: an index in range wraps as its successor does modulo the length of its table. -/
theorem wrapInc_eq_ofNat_mod {i : Byte} {n : Nat} (hi : i.toNat < n) (hn : n ≤ 256) :
    wrapInc i n = BitVec.ofNat 8 ((i.toNat + 1) % n) := by
  have hlt : (i.toNat + 1) % n < 2 ^ 8 := (Nat.mod_lt _ (Nat.zero_lt_of_lt hi)).trans_le hn
  rw [← BitVec.toNat_inj, wrapInc_toNat i n hi hn, BitVec.toNat_ofNat, Nat.mod_eq_of_lt hlt]
  by_cases hlast : i.toNat = n - 1
  · have hsucc : i.toNat + 1 = n := by omega
    rw [if_pos hlast, hsucc, Nat.mod_self]
  · have hsucc : i.toNat + 1 < n := by omega
    rw [if_neg hlast, Nat.mod_eq_of_lt hsucc]

/-- Settles O33: the write of the index and its report, with the wrap as a remainder (R130). -/
theorem advanceColorWrapsAndReports : Obligations.AdvanceColorWrapsAndReports := by
  unfold Obligations.AdvanceColorWrapsAndReports
  intro s hidx hn
  rw [advanceColor_eq, wrapInc_eq_ofNat_mod hidx hn]

theorem offCycleBright_of_level {s : State} (hsrc : s.cfg.brightSrc = .level) (hidx : s.bidx.toNat < s.cfg.nBright) :
    offCycleBright s = s.cfg.level.getD s.bidx.toNat 0 &&& s.cfg.brightMask := by
  rw [offCycleBright, hsrc, ← activeLevel_eq hidx]
  rfl

theorem offCycleBright_of_phase {s : State} (hsrc : s.cfg.brightSrc = .phase) : offCycleBright s = s.cur.br := by
  rw [offCycleBright, hsrc]

/-- Settles O34: the wrap as a remainder, and the brightness of the off-cycle render from each source, which the level table
gives at the new index (R131). -/
theorem advanceBrightRendersCurAtNewLevel : Obligations.AdvanceBrightRendersCurAtNewLevel := by
  unfold Obligations.AdvanceBrightRendersCurAtNewLevel
  intro s hidx hn j nb q
  have hj : wrapInc s.bidx s.cfg.nBright = j := wrapInc_eq_ofNat_mod hidx hn
  have hnew : j.toNat < s.cfg.nBright := hj ▸ wrapInc_lt s.bidx s.cfg.nBright hidx hn
  have hnb : offCycleBright ((s.setBidx j).emit (.report .bright j)) = nb := by
    cases hsrc : s.cfg.brightSrc with
    | level =>
      rw [offCycleBright_of_level (s := (s.setBidx j).emit _) hsrc hnew]
      simp [nb, hsrc]
    | phase =>
      rw [offCycleBright_of_phase (s := (s.setBidx j).emit _) hsrc]
      simp [nb, hsrc]
  rw [advanceBright_eq, hj, hnb, List.append_assoc]
  rfl

/-! ## SETC and SETB -/

theorem cmdReady_of_idle {s : State} (h : s.fsm = .idle) : s.cmdReady = true := by simp [State.cmdReady, h]

theorem execSetc_of_idle {s : State} (hadm : s.cfg.admitted = true) (hidle : s.fsm = .idle) (i : Byte) :
    exec (.setc i) s = .next (setColorPlan i s) := by
  rw [execSetc_of_admitted hadm, if_pos (cmdReady_of_idle hidle)]

theorem execSetb_of_idle {s : State} (hadm : s.cfg.admitted = true) (hidle : s.fsm = .idle) (i : Byte) :
    exec (.setb i) s = .next (setBrightPlan i s) := by
  rw [execSetb_of_admitted hadm, if_pos (cmdReady_of_idle hidle)]

theorem setColorPlan_of_lt {i : Byte} {s : State} (h : i.toNat < s.cfg.nColor) : setColorPlan i s = { s with cidx := i } :=
  if_pos (decide_eq_true h)

theorem setColorPlan_of_not_lt {i : Byte} {s : State} (h : ¬ i.toNat < s.cfg.nColor) : setColorPlan i s = s := by
  rw [setColorPlan, indexValid, decide_eq_false h, if_neg Bool.false_ne_true]

theorem setBrightPlan_of_lt {i : Byte} {s : State} (h : i.toNat < s.cfg.nBright) :
    setBrightPlan i s = { s with bidx := i } := if_pos (decide_eq_true h)

theorem setBrightPlan_of_not_lt {i : Byte} {s : State} (h : ¬ i.toNat < s.cfg.nBright) : setBrightPlan i s = s := by
  rw [setBrightPlan, indexValid, decide_eq_false h, if_neg Bool.false_ne_true]

/-- Settles O35: `N_COLOR` is at least 1, so `i <= N_COLOR - 1` is the check that SETC makes (R7 (c), R132). -/
theorem setcWritesOnlyAValidIndex : Obligations.SetcWritesOnlyAValidIndex := by
  unfold Obligations.SetcWritesOnlyAValidIndex
  intro s i hadm
  obtain ⟨hpos, -⟩ := Config.counts_of_wf (Config.wf_of_admitted hadm)
  have hvalid : i.toNat ≤ s.cfg.plan.length - 1 ↔ i.toNat < s.cfg.nColor := Nat.le_sub_one_iff_lt hpos
  refine ⟨fun hidle hi => ?_, fun hidle hi => ?_⟩
  · rw [execSetc_of_idle hadm hidle, setColorPlan_of_lt (hvalid.mp hi)]
  · rw [execSetc_of_idle hadm hidle, setColorPlan_of_not_lt (mt hvalid.mpr hi)]

/-- Settles O36: `N_BRIGHT` is at least 1, so `i <= N_BRIGHT - 1` is the check that SETB makes (R7 (c), R133). -/
theorem setbWritesOnlyAValidIndex : Obligations.SetbWritesOnlyAValidIndex := by
  unfold Obligations.SetbWritesOnlyAValidIndex
  intro s i hadm
  obtain ⟨-, -, hpos, -⟩ := Config.counts_of_wf (Config.wf_of_admitted hadm)
  have hvalid : i.toNat ≤ s.cfg.level.length - 1 ↔ i.toNat < s.cfg.nBright := Nat.le_sub_one_iff_lt hpos
  refine ⟨fun hidle hi => ?_, fun hidle hi => ?_⟩
  · rw [execSetb_of_idle hadm hidle, setBrightPlan_of_lt (hvalid.mp hi)]
  · rw [execSetb_of_idle hadm hidle, setBrightPlan_of_not_lt (mt hvalid.mpr hi)]

/-! ## The capture -/

/-- A tuple reads back as written: each of its four bytes is at an address that the later writes leave alone (R51). -/
theorem Memory.readTuple_writeTuple_same (m : Memory) (a : Nat) (q : Tuple) (h : m.wf = true) :
    (m.writeTuple a q).readTuple a = q := by
  have h1 := Memory.wf_write m a q.r h
  have h2 := Memory.wf_write _ (a + 1) q.g h1
  have h3 := Memory.wf_write _ (a + 2) q.b h2
  have hr : (m.writeTuple a q).read a = q.r := by
    rw [Memory.writeTuple, Memory.read_write_other _ _ _ _ (by omega) 0 h3,
      Memory.read_write_other _ _ _ _ (by omega) 0 h2, Memory.read_write_other _ _ _ _ (by omega) 0 h1,
      Memory.read_write_same _ _ _ 0 h]
  have hg : (m.writeTuple a q).read (a + 1) = q.g := by
    rw [Memory.writeTuple, Memory.read_write_other _ _ _ _ (by omega) 0 h3,
      Memory.read_write_other _ _ _ _ (by omega) 0 h2, Memory.read_write_same _ _ _ 0 h1]
  have hb : (m.writeTuple a q).read (a + 2) = q.b := by
    rw [Memory.writeTuple, Memory.read_write_other _ _ _ _ (by omega) 0 h3, Memory.read_write_same _ _ _ 0 h2]
  have hbr : (m.writeTuple a q).read (a + 3) = q.br := Memory.read_write_same _ _ _ 0 h3
  rw [Memory.readTuple, hr, hg, hb, hbr]

/-- CAPTURE with `sidx` in range: the store takes place (R134). -/
theorem capture_of_lt {s : State} (h : s.sidx.toNat < s.cfg.nSlots.val) :
    capture s =
      { s with slot := s.slot.writeTuple (slotAddr s.sidx) s.cur,
               trace := s.trace ++ flashEvents s.cur (s.sidx.toNat + 1),
               sidx := BitVec.ofNat 8 ((s.sidx.toNat + 1) % s.cfg.nSlots.val) } := by
  rw [capture_eq, if_pos h]

/-- There are at most 256 slots, so a slot number in range is a byte. -/
theorem ofNat_mod_nSlots_toNat {c : Config} (hpos : 0 < c.nSlots.val) (n : Nat) :
    (BitVec.ofNat 8 (n % c.nSlots.val)).toNat = n % c.nSlots.val := by
  have hlt : n % c.nSlots.val < 2 ^ 8 := (Nat.mod_lt n hpos).trans_le (Nat.le_of_lt_succ c.nSlots.isLt)
  rw [BitVec.toNat_ofNat, Nat.mod_eq_of_lt hlt]

/-- Settles O38: the whole state after the capture, and of its memory the bytes in the slot and those outside (R134). -/
theorem captureStoresCurAndFlashes : Obligations.CaptureStoresCurAndFlashes := by
  unfold Obligations.CaptureStoresCurAndFlashes
  intro s hwf hlt
  rw [capture_of_lt hlt]
  refine ⟨?stored, fun a ha => ?outside, rfl, ?advanced, rfl⟩
  case stored => exact Memory.readTuple_writeTuple_same s.slot _ s.cur hwf
  case outside => exact Memory.read_writeTuple_outside s.slot _ a s.cur hwf ha
  case advanced => exact ofNat_mod_nSlots_toNat (Nat.zero_lt_of_lt hlt) _

end Sys2Proof.Machine
end

section
/-! TICK (R161 to R167): one equation for each case of each mode, the next mode, and the whole state after a long press. -/

namespace Sys2Proof.Machine

/-! ## The button level -/

theorem buttonLevel_cases (l : ButtonLevel) : l = 0 ∨ l = 1 := by
  have h : ∀ l : ButtonLevel, l = 0 ∨ l = 1 := by decide
  exact h l

theorem pressed_zero : pressed 0 = true := rfl

theorem pressed_one : pressed 1 = false := rfl

/-! ## TICK in each mode -/

theorem tickCycle_of_idle {s : State} (h : s.fsm = .idle) (p : Bool) : tickCycle p s = tickIdle p s := by
  rw [tickCycle, h]

theorem tickCycle_of_hold {s : State} (h : s.fsm = .hold) (p : Bool) : tickCycle p s = tickHold p s := by
  rw [tickCycle, h]

theorem tickCycle_of_relwait {s : State} (h : s.fsm = .relwait) (p : Bool) : tickCycle p s = tickRelwait p s := by
  rw [tickCycle, h]

theorem execTick_of_idle {s : State} (hadm : s.cfg.admitted = true) (h : s.fsm = .idle) (l : ButtonLevel) :
    exec (.tick l) s = .next (tickIdle (pressed l) s) := by
  rw [execTick_of_admitted hadm, tickCycle_of_idle h]

theorem execTick_of_hold {s : State} (hadm : s.cfg.admitted = true) (h : s.fsm = .hold) (l : ButtonLevel) :
    exec (.tick l) s = .next (tickHold (pressed l) s) := by
  rw [execTick_of_admitted hadm, tickCycle_of_hold h]

theorem execTick_of_relwait {s : State} (hadm : s.cfg.admitted = true) (h : s.fsm = .relwait) (l : ButtonLevel) :
    exec (.tick l) s = .next (tickRelwait (pressed l) s) := by
  rw [execTick_of_admitted hadm, tickCycle_of_relwait h]

/-! ## The cases of each mode -/

/-- A released sample clears the counter, and 0 exceeds no threshold (R162). -/
theorem tickIdle_released (s : State) : tickIdle false s = anim (s.setCnt 0) := by
  have hover : overShort (s.setCnt 0) = false := decide_eq_false (Nat.not_lt_zero _)
  rw [tickIdle, debounce, if_neg Bool.false_ne_true, hover, if_neg Bool.false_ne_true]

theorem tickIdle_pressed_of_le {s : State} (h : (satInc s.cfg s.cnt).toNat ≤ s.cfg.shortTh) :
    tickIdle true s = anim (s.setCnt (satInc s.cfg s.cnt)) := by
  have hover : overShort (s.setCnt (satInc s.cfg s.cnt)) = false := decide_eq_false (Nat.not_lt.mpr h)
  simp [tickIdle, debounce, hover]

theorem tickIdle_pressed_of_lt {s : State} (h : s.cfg.shortTh < (satInc s.cfg s.cnt).toNat) :
    tickIdle true s = (blank (s.setCnt (satInc s.cfg s.cnt))).setFsm .hold := by
  have hover : overShort (s.setCnt (satInc s.cfg s.cnt)) = true := decide_eq_true h
  simp [tickIdle, debounce, hover]

theorem tickHold_released_of_le {s : State} (h : s.cnt.toNat ≤ s.cfg.longTh) : tickHold false s = shortPress s := by
  have hover : overLong s = false := decide_eq_false (Nat.not_lt.mpr h)
  simp [tickHold, holdCount, hover]

theorem tickHold_pressed_of_le {s : State} (h : (satInc s.cfg s.cnt).toNat ≤ s.cfg.longTh) :
    tickHold true s = s.setCnt (satInc s.cfg s.cnt) := by
  have hover : overLong (s.setCnt (satInc s.cfg s.cnt)) = false := decide_eq_false (Nat.not_lt.mpr h)
  simp [tickHold, holdCount, hover]

theorem tickHold_pressed_of_lt {s : State} (h : s.cfg.longTh < (satInc s.cfg s.cnt).toNat) :
    tickHold true s = longPress (s.setCnt (satInc s.cfg s.cnt)) := by
  have hover : overLong (s.setCnt (satInc s.cfg s.cnt)) = true := decide_eq_true h
  simp [tickHold, holdCount, hover]

theorem tickRelwait_pressed (s : State) : tickRelwait true s = s := rfl

theorem tickRelwait_released (s : State) : tickRelwait false s = anim (s.setFsm .idle) := rfl

/-! ## The next mode -/

@[simp] theorem anim_fsm (s : State) : (anim s).fsm = s.fsm := by rw [anim_frame]

@[simp] theorem shortPress_fsm (s : State) : (shortPress s).fsm = .idle := anim_fsm _

@[simp] theorem longPress_fsm (s : State) : (longPress s).fsm = .relwait := rfl

theorem tickIdle_fsm {s : State} (hidle : s.fsm = .idle) (l : ButtonLevel) :
    (tickIdle (pressed l) s).fsm =
      if l = 0 ∧ s.cfg.shortTh < (satInc s.cfg s.cnt).toNat then .hold else .idle := by
  obtain rfl | rfl := buttonLevel_cases l
  · rw [pressed_zero]
    by_cases h : s.cfg.shortTh < (satInc s.cfg s.cnt).toNat
    · simp [tickIdle_pressed_of_lt h, h]
    · simp [tickIdle_pressed_of_le (Nat.not_lt.mp h), h, hidle]
  · rw [pressed_one, tickIdle_released]
    simp [hidle]

theorem tickHold_fsm {s : State} (hhold : s.fsm = .hold) (hcnt : s.cnt.toNat ≤ s.cfg.longTh) (l : ButtonLevel) :
    (tickHold (pressed l) s).fsm =
      if l = 1 then .idle else if s.cfg.longTh < (satInc s.cfg s.cnt).toNat then .relwait else .hold := by
  obtain rfl | rfl := buttonLevel_cases l
  · rw [pressed_zero]
    by_cases h : s.cfg.longTh < (satInc s.cfg s.cnt).toNat
    · simp [tickHold_pressed_of_lt h, h]
    · simp [tickHold_pressed_of_le (Nat.not_lt.mp h), h, hhold]
  · rw [pressed_one, tickHold_released_of_le hcnt]
    simp

theorem tickRelwait_fsm {s : State} (hrelwait : s.fsm = .relwait) (l : ButtonLevel) :
    (tickRelwait (pressed l) s).fsm = if l = 0 then .relwait else .idle := by
  obtain rfl | rfl := buttonLevel_cases l
  · rw [pressed_zero, tickRelwait_pressed]
    simp [hrelwait]
  · rw [pressed_one, tickRelwait_released]
    simp

/-- Settles O44: each row by the equation of its case, and the next mode by that of its mode (R167). -/
theorem tickFollowsTheTransitionTable : Obligations.TickFollowsTheTransitionTable := by
  unfold Obligations.TickFollowsTheTransitionTable
  intro s l hadm c' j
  refine ⟨?idleReleased, ?idlePressed, ?idleToHold, ?shortPress, ?holdPressed, ?longPress, ?relwaitPressed,
    ?relwaitReleased, tickCycle (pressed l) s, execTick_of_admitted hadm l, ?fsmOfIdle, ?fsmOfHold, ?fsmOfRelwait⟩
  case idleReleased =>
    rintro hfsm rfl
    rw [execTick_of_idle hadm hfsm, pressed_one, tickIdle_released]
    rfl
  case idlePressed =>
    rintro hfsm rfl hle
    rw [execTick_of_idle hadm hfsm, pressed_zero, tickIdle_pressed_of_le hle]
    rfl
  case idleToHold =>
    rintro hfsm rfl hlt
    rw [execTick_of_idle hadm hfsm, pressed_zero, tickIdle_pressed_of_lt hlt]
    rfl
  case shortPress =>
    rintro hfsm rfl hle
    rw [execTick_of_hold hadm hfsm, pressed_one, tickHold_released_of_le hle]
    rfl
  case holdPressed =>
    rintro hfsm rfl hle
    rw [execTick_of_hold hadm hfsm, pressed_zero, tickHold_pressed_of_le hle]
    rfl
  case longPress =>
    rintro hfsm rfl hlt
    rw [execTick_of_hold hadm hfsm, pressed_zero, tickHold_pressed_of_lt hlt]
    rfl
  case relwaitPressed =>
    rintro hfsm rfl
    rw [execTick_of_relwait hadm hfsm, pressed_zero, tickRelwait_pressed]
  case relwaitReleased =>
    rintro hfsm rfl
    rw [execTick_of_relwait hadm hfsm, pressed_one, tickRelwait_released]
    rfl
  case fsmOfIdle =>
    intro hfsm
    rw [tickCycle_of_idle hfsm, tickIdle_fsm hfsm]
  case fsmOfHold =>
    intro hfsm hcnt
    rw [tickCycle_of_hold hfsm, tickHold_fsm hfsm hcnt]
  case fsmOfRelwait =>
    intro hfsm
    rw [tickCycle_of_relwait hfsm, tickRelwait_fsm hfsm]

/-! ## The long press -/

theorem longAct_of_advBright {s : State} (h : s.cfg.longAction = .advBright) : longAct s = advanceBright s := by
  rw [longAct, h]

theorem longAct_of_capture {s : State} (h : s.cfg.longAction = .capture) : longAct s = capture s := by
  rw [longAct, h]

/-- R131 with `BRIGHT_SRC = LEVEL`. -/
theorem advanceBright_of_level {s : State} (hidx : s.bidx.toNat < s.cfg.nBright) (hn : s.cfg.nBright ≤ 256)
    (hsrc : s.cfg.brightSrc = .level) :
    let j : Byte := BitVec.ofNat 8 ((s.bidx.toNat + 1) % s.cfg.nBright)
    let q : Tuple := ⟨s.cur.r, s.cur.g, s.cur.b, s.cfg.level.getD j.toNat 0 &&& s.cfg.brightMask⟩
    advanceBright s = { s with bidx := j, cur := q, trace := s.trace ++ [.report .bright j, .frame q] } := by
  have h := advanceBrightRendersCurAtNewLevel s hidx hn
  simpa only [hsrc] using h

/-- R131 with `BRIGHT_SRC = PHASE`: the frame repeats `cur`. -/
theorem advanceBright_of_phase {s : State} (hidx : s.bidx.toNat < s.cfg.nBright) (hn : s.cfg.nBright ≤ 256)
    (hsrc : s.cfg.brightSrc = .phase) :
    let j : Byte := BitVec.ofNat 8 ((s.bidx.toNat + 1) % s.cfg.nBright)
    advanceBright s = { s with bidx := j, trace := s.trace ++ [.report .bright j, .frame s.cur] } := by
  have h := advanceBrightRendersCurAtNewLevel s hidx hn
  simpa only [hsrc] using h

theorem execTick_longPress {s : State} (hadm : s.cfg.admitted = true) (hhold : s.fsm = .hold)
    (hlong : s.cfg.longTh < (satInc s.cfg s.cnt).toNat) :
    exec (.tick 0) s = .next (longPress (s.setCnt (satInc s.cfg s.cnt))) := by
  rw [execTick_of_hold hadm hhold, pressed_zero, tickHold_pressed_of_lt hlong]

/-- Settles O45: the long press at the incremented counter, by the equation of its action and brightness source; R7 (f) gives
the capture a slot (R131, R134, R166). -/
theorem longPressDoesTheConfiguredAction : Obligations.LongPressDoesTheConfiguredAction := by
  unfold Obligations.LongPressDoesTheConfiguredAction
  rintro s ⟨hadm, -, hbidx, hsidx⟩ hhold hlong
  have hwf := Config.wf_of_admitted hadm
  obtain ⟨-, -, -, hn⟩ := Config.counts_of_wf hwf
  rw [execTick_longPress hadm hhold hlong, longPress]
  generalize satInc s.cfg s.cnt = c
  refine ⟨fun hact hsrc => ?_, fun hact hsrc => ?_, fun hact => ?_⟩
  · rw [longAct_of_advBright (s := s.setCnt c) hact, advanceBright_of_level (s := s.setCnt c) hbidx hn hsrc]
    rfl
  · rw [longAct_of_advBright (s := s.setCnt c) hact, advanceBright_of_phase (s := s.setCnt c) hbidx hn hsrc]
    rfl
  · have hslot : s.sidx.toNat < s.cfg.nSlots.val := hsidx (Config.capture_of_wf hwf hact)
    rw [longAct_of_capture (s := s.setCnt c) hact, capture_of_lt (s := s.setCnt c) hslot]
    rfl

end Sys2Proof.Machine
end

section
/-! Reset and the writes of the phases (R220, R221): the step of a reset turn, the host command that waits behind it, and that
no command writes a phase other than by an advance of an entry of PLAN. -/

namespace Sys2Proof.Machine

/-! ## The turn of reset -/

theorem nextOperation_of_reset {s : State} {ts : List Turn} (h : s.turns = .reset :: ts) :
    nextOperation s = .reset (s.setTurns ts) := by
  simp [nextOperation, h]

/-- R220: a turn of reset uses up the turn and resets, under an admitted configuration. -/
theorem step_of_reset {s : State} {ts : List Turn} (h : s.turns = .reset :: ts) :
    step s = withConfig s (doReset (s.setTurns ts)) := by
  rw [step, nextOperation_of_reset h]
  rfl

/-- Reset empties the slot memory, and an unlisted address reads as 0 (R32, R39). -/
@[simp] theorem doReset_slot_read (s : State) (a : Nat) : (doReset s).slot.read a = 0 := rfl

/-! ## The host command behind a reset -/

theorem hostPortTurn_of_ok {s : State} {w : Word} {ws : List Word} {i : Instr} (hidle : s.fsm = .idle)
    (hw : s.hostWords = w :: ws) (hd : decode .hostPort w = .ok i) :
    hostPortTurn s = .accepted i (s.setHostWords ws) := by
  simp [hostPortTurn, hw, hd, cmdReady_of_idle hidle]

/-- R78: in IDLE a turn of host_port executes the command that waits there. -/
theorem step_of_hostCommand {s : State} {us : List Turn} {w : Word} {ws : List Word} {i : Instr} (hidle : s.fsm = .idle)
    (ht : s.turns = .port .hostPort :: us) (hw : s.hostWords = w :: ws) (hd : decode .hostPort w = .ok i) :
    step s = exec i { s with turns := us, hostWords := ws } := by
  have hop : nextOperation s = .accepted i ((s.setTurns us).setHostWords ws) :=
    (nextOperation_of_hostPort ht).trans (hostPortTurn_of_ok hidle hw hd)
  rw [step, hop]
  rfl

/-- Settles O10: the state after the reset turn, field by field, and the host command accepted in its IDLE (R220). -/
theorem resetInputRestoresResetValues : Obligations.ResetInputRestoresResetValues := by
  unfold Obligations.ResetInputRestoresResetValues
  intro s ts hadm hreset
  have hstep : step s = .next (doReset (s.setTurns ts)) := by
    rw [step_of_reset hreset, withConfig_of_admitted hadm]
  refine ⟨doReset (s.setTurns ts), hstep, rfl, rfl, rfl, rfl, rfl, rfl, doReset_slot_read _, rfl, rfl, rfl, rfl, rfl, rfl,
    ?hostCommand⟩
  case hostCommand =>
    intro us w ws i hturn hword hdecode
    exact step_of_hostCommand (s := doReset (s.setTurns ts)) rfl hturn hword hdecode

/-! ## The writes of the phases by a command -/

/-- From `s` to `t` the phases are held, or advanced by one Cycling entry of PLAN (R221). -/
abbrev PhasesHeldOrAdvanced (s t : State) : Prop :=
  t.phase = s.phase ∨ ∃ inc, Plan.cycling inc ∈ s.cfg.plan ∧ t.phase = advancePhases s.cfg.nch inc s.phase

/-- With `cidx` in range the plan that ANIM advances by stands in PLAN (R107). -/
theorem anim_phases {s : State} (h : s.cidx.toNat < s.cfg.nColor) : PhasesHeldOrAdvanced s (anim s) := by
  obtain ⟨p, q, hanim, hp⟩ := anim_cases s
  have hphase : (anim s).phase = p := by rw [hanim, render_eq, State.setPhase_phase]
  rw [PhasesHeldOrAdvanced, hphase]
  obtain hheld | ⟨inc, hplan, hadvanced⟩ := hp
  · exact .inl hheld
  · exact .inr ⟨inc, hplan ▸ activePlan_mem h, hadvanced⟩

@[simp] theorem capture_phase (s : State) : (capture s).phase = s.phase := by rw [capture_eq]

/-- Neither long-press action writes a phase (R131, R134). -/
@[simp] theorem longAct_phase (s : State) : (longAct s).phase = s.phase := by
  obtain ⟨-, h⟩ | ⟨-, h⟩ := longAct_cases s
  · rw [h, advanceBright_eq]
  · rw [h, capture_phase]

/-- A TICK that animates does so with a plan index in range: the one of `s`, or after a short press its successor. -/
theorem tickCycle_phases {s : State} (hcidx : s.cidx.toNat < s.cfg.nColor) (hn : s.cfg.nColor ≤ 256) (p : Bool) :
    PhasesHeldOrAdvanced s (tickCycle p s) := by
  obtain ⟨-, -, -, toHold⟩ | ⟨-, -, -, holding⟩ | ⟨-, -, waiting⟩ | ⟨-, c, -, -, animating⟩ | ⟨-, -, released⟩ |
    ⟨-, -, -, short⟩ | ⟨-, c, -, -, long⟩ := tickCycle_cases p s
  · rw [toHold]
    exact .inl rfl
  · rw [holding]
    exact .inl rfl
  · rw [waiting]
    exact .inl rfl
  · rw [animating]
    exact anim_phases (s := s.setCnt c) hcidx
  · rw [released]
    exact anim_phases (s := s.setFsm .idle) hcidx
  · have hnext : (wrapInc s.cidx s.cfg.nColor).toNat < s.cfg.nColor := wrapInc_lt s.cidx s.cfg.nColor hcidx hn
    rw [short]
    exact anim_phases (s := ((advanceColor s).setCnt 0).setFsm .idle) hnext
  · rw [long]
    exact .inl (longAct_phase (s.setCnt c))

@[simp] theorem setColorPlan_phase (i : Byte) (s : State) : (setColorPlan i s).phase = s.phase := by
  by_cases h : i.toNat < s.cfg.nColor
  · rw [setColorPlan_of_lt h]
  · rw [setColorPlan_of_not_lt h]

@[simp] theorem setBrightPlan_phase (i : Byte) (s : State) : (setBrightPlan i s).phase = s.phase := by
  by_cases h : i.toNat < s.cfg.nBright
  · rw [setBrightPlan_of_lt h]
  · rw [setBrightPlan_of_not_lt h]

/-- A command that answers a next state has an admitted configuration (R7). -/
theorem admitted_of_exec {i : Instr} {s t : State} (h : exec i s = .next t) : s.cfg.admitted = true := by
  by_contra hadm
  rw [exec_of_not_admitted (Bool.eq_false_iff.mpr hadm)] at h
  cases h

/-- R221: SETC and SETB write no phase, so what a TICK can do is what a command can do. -/
theorem exec_phases {i : Instr} {s t : State} (hcidx : s.cidx.toNat < s.cfg.nColor) (h : exec i s = .next t) :
    PhasesHeldOrAdvanced s t := by
  have hadm := admitted_of_exec h
  cases i with
  | tick l =>
    obtain ⟨-, hn, -⟩ := Config.counts_of_wf (Config.wf_of_admitted hadm)
    rw [execTick_of_admitted hadm] at h
    cases h
    exact tickCycle_phases hcidx hn _
  | setc k =>
    rw [execSetc_of_admitted hadm] at h
    cases h
    left
    rw [apply_ite State.phase, setColorPlan_phase, ite_self]
  | setb k =>
    rw [execSetb_of_admitted hadm] at h
    cases h
    left
    rw [apply_ite State.phase, setBrightPlan_phase, ite_self]

/-- Settles O21: a step runs a command, resets, or touches the ports alone; and the step of a reset turn is `doReset`, which
empties the slot memory (R221). -/
theorem onlyAdvanceAndResetWritePhases : Obligations.OnlyAdvanceAndResetWritePhases := by
  unfold Obligations.OnlyAdvanceAndResetWritePhases
  rintro s t ⟨hcidx, -, -⟩ hstep
  constructor
  · obtain ⟨i, u, ⟨ts, ws, hs, rfl⟩, -, -, hexec⟩ | ⟨u, ⟨ts, ws, hs, rfl⟩, hreset, rfl⟩ | ⟨ts, ws, hs, rfl⟩ :=
      step_cases hstep
    · obtain hheld | hadvanced := exec_phases (s := { s with turns := ts, tickWords := ws, hostWords := hs }) hcidx hexec
      · exact .inl hheld
      · exact .inr (.inl hadvanced)
    · exact .inr (.inr ⟨ts, hreset, rfl⟩)
    · exact .inl rfl
  · intro ts hreset a
    rw [step_of_reset hreset] at hstep
    obtain ⟨-, rfl⟩ := withConfig_eq_next.mp hstep
    exact doReset_slot_read _ a

end Sys2Proof.Machine
end

section
/-! The encoder against the decoder (R71, R76) and the assembler's words (R79). -/

namespace Sys2Proof

/-! ## Decoding inverts encoding -/

/-- Whatever the port, a word reads as a command exactly when it is the command's encoding. -/
theorem decodeWord_eq_ok_iff_encode (w : Word) (i : Instr) : decodeWord w = .ok i ↔ w = encode i := by
  have hw := w.isLt
  rw [decodeWord_eq_ok_iff, ← BitVec.toNat_inj (x := w)]
  cases i with
  | tick l =>
    have hl := l.isLt
    simp only [← BitVec.toNat_inj, opField_toNat, rsvField_toNat, tickRestField_toNat, levelField_toNat,
      encode_tick_toNat, Instr.tick.injEq, reduceCtorEq, and_false, or_false]
    simp only [opTick, BitVec.reduceToNat]
    omega
  | setc k =>
    have hk := k.isLt
    simp only [← BitVec.toNat_inj, opField_toNat, rsvField_toNat, argField_toNat, encode_setc_toNat,
      Instr.setc.injEq, reduceCtorEq, and_false, or_false, false_or]
    simp only [opSetc, BitVec.reduceToNat]
    omega
  | setb k =>
    have hk := k.isLt
    simp only [← BitVec.toNat_inj, opField_toNat, rsvField_toNat, argField_toNat, encode_setb_toNat,
      Instr.setb.injEq, reduceCtorEq, and_false, false_or]
    simp only [opSetb, BitVec.reduceToNat]
    omega

theorem decode_eq_ok_iff_encode (p : Port) (w : Word) (i : Instr) :
    decode p w = .ok i ↔ i.port = p ∧ w = encode i := by
  rw [decode_ok_iff, decodeWord_eq_ok_iff_encode, and_comm]

/-- Settles O1: the fields of a word that reads as a command are those of the command's encoding, as numbers. -/
theorem decodeReadsExactlyTheEncodings : Obligations.DecodeReadsExactlyTheEncodings := by
  unfold Obligations.DecodeReadsExactlyTheEncodings
  exact decode_eq_ok_iff_encode

/-- Each port reads back the encoding of its own commands. -/
theorem decode_encode (i : Instr) : decode i.port (encode i) = .ok i :=
  (decode_eq_ok_iff_encode i.port (encode i) i).mpr ⟨rfl, rfl⟩

/-- Settles O3: each word is computed by the decoder. -/
theorem sampleWordsDecode : Obligations.SampleWordsDecode := by
  unfold Obligations.SampleWordsDecode
  decide

end Sys2Proof

namespace Sys2Proof.Machine

/-! ## The assembler's pseudo-instructions -/

/-- The word decodes on tick_port to a TICK. -/
def IsTickWord (w : Word) : Prop := ∃ l, decode .tickPort w = .ok (.tick l)

theorem isTickWord_encode (l : ButtonLevel) : IsTickWord (encode (.tick l)) := ⟨l, decode_encode (.tick l)⟩

theorem isTickWord_of_mem_replicate {n : Nat} {l : ButtonLevel} {w : Word}
    (h : w ∈ List.replicate n (encode (.tick l))) : IsTickWord w :=
  List.eq_of_mem_replicate h ▸ isTickWord_encode l

theorem isTickWord_of_mem_pressWords {n : Nat} {w : Word} (h : w ∈ pressWords n) : IsTickWord w := by
  obtain hpressed | hreleased := List.mem_append.mp h
  · exact isTickWord_of_mem_replicate hpressed
  · exact List.mem_singleton.mp hreleased ▸ isTickWord_encode 1

/-- Settles O8: the words of each line by computation of the two TICK words, each of which decodes to a TICK (R79). -/
theorem pseudoInstructionsExpandToTicks : Obligations.PseudoInstructionsExpandToTicks := by
  unfold Obligations.PseudoInstructionsExpandToTicks
  refine fun c n => ⟨rfl, rfl, rfl, rfl, rfl, fun line ws hline hws w hw => ?_⟩
  simp only [List.mem_cons, List.not_mem_nil, or_false] at hline
  obtain rfl | rfl | rfl | rfl | rfl := hline
  · cases hws
    exact isTickWord_of_mem_replicate hw
  · cases hws
    exact isTickWord_of_mem_replicate hw
  · rw [asmWords, Option.ite_none_right_eq_some] at hws
    obtain ⟨-, h⟩ := hws
    cases h
    exact isTickWord_of_mem_pressWords hw
  · cases hws
    exact isTickWord_of_mem_pressWords hw
  · cases hws
    exact isTickWord_of_mem_pressWords hw

end Sys2Proof.Machine
end

section
/-! What a command can do, said once, with what it leaves unchanged and the events it appends (R36, R37, R61); and the step of
each turn (R58, R78, R210). -/

namespace Sys2Proof.Machine

/-! ## SETC and SETB where they are not accepted -/

theorem cmdReady_of_ne_idle {s : State} (h : s.fsm ≠ .idle) : s.cmdReady = false := beq_false_of_ne h

theorem execSetc_of_ne_idle {s : State} (hadm : s.cfg.admitted = true) (h : s.fsm ≠ .idle) (i : Byte) :
    exec (.setc i) s = .next s := by
  rw [execSetc_of_admitted hadm, cmdReady_of_ne_idle h, if_neg Bool.false_ne_true]

theorem execSetb_of_ne_idle {s : State} (hadm : s.cfg.admitted = true) (h : s.fsm ≠ .idle) (i : Byte) :
    exec (.setb i) s = .next s := by
  rw [execSetb_of_admitted hadm, cmdReady_of_ne_idle h, if_neg Bool.false_ne_true]

/-- Settles O37: `cmd_ready` is 0 outside IDLE, where neither command does anything (R78, log entry 14). -/
theorem hostCommandsOutsideIdleChangeNothing : Obligations.HostCommandsOutsideIdleChangeNothing := by
  unfold Obligations.HostCommandsOutsideIdleChangeNothing
  exact fun s i hadm h => ⟨execSetc_of_ne_idle hadm h i, execSetb_of_ne_idle hadm h i⟩

/-! ## The commands -/

/-- Under an admitted configuration every command has a next state (R200). -/
theorem exec_completes {s : State} (hadm : s.cfg.admitted = true) (i : Instr) : ∃ t, exec i s = .next t := by
  cases i with
  | tick l => exact ⟨_, execTick_of_admitted hadm l⟩
  | setc k => exact ⟨_, execSetc_of_admitted hadm k⟩
  | setb k => exact ⟨_, execSetb_of_admitted hadm k⟩

/-- What a command can do: the cycle of a TICK; nothing, where SETC or SETB is turned away; or the write of a valid index. -/
theorem exec_cases {i : Instr} {s t : State} (h : exec i s = .next t) :
    (∃ l, i = .tick l ∧ t = tickCycle (pressed l) s) ∨
    t = s ∨
    (∃ k : Byte, s.fsm = .idle ∧ k.toNat < s.cfg.nColor ∧ t = { s with cidx := k }) ∨
    (∃ k : Byte, s.fsm = .idle ∧ k.toNat < s.cfg.nBright ∧ t = { s with bidx := k }) := by
  have hadm := admitted_of_exec h
  cases i with
  | tick l =>
    rw [execTick_of_admitted hadm] at h
    cases h
    exact .inl ⟨l, rfl, rfl⟩
  | setc k =>
    by_cases hidle : s.fsm = .idle
    · rw [execSetc_of_idle hadm hidle] at h
      cases h
      by_cases hk : k.toNat < s.cfg.nColor
      · exact .inr (.inr (.inl ⟨k, hidle, hk, setColorPlan_of_lt hk⟩))
      · exact .inr (.inl (setColorPlan_of_not_lt hk))
    · rw [execSetc_of_ne_idle hadm hidle] at h
      cases h
      exact .inr (.inl rfl)
  | setb k =>
    by_cases hidle : s.fsm = .idle
    · rw [execSetb_of_idle hadm hidle] at h
      cases h
      by_cases hk : k.toNat < s.cfg.nBright
      · exact .inr (.inr (.inr ⟨k, hidle, hk, setBrightPlan_of_lt hk⟩))
      · exact .inr (.inl (setBrightPlan_of_not_lt hk))
    · rw [execSetb_of_ne_idle hadm hidle] at h
      cases h
      exact .inr (.inl rfl)

/-! ## What no command writes -/

/-- `t` has the configuration, the words and the turns of `s`. -/
abbrev KeepsOutside (s t : State) : Prop :=
  t.cfg = s.cfg ∧ t.tickWords = s.tickWords ∧ t.hostWords = s.hostWords ∧ t.turns = s.turns

theorem anim_keepsOutside (s : State) : KeepsOutside s (anim s) := by
  rw [anim_frame]
  exact ⟨rfl, rfl, rfl, rfl⟩

theorem longAct_keepsOutside (s : State) : KeepsOutside s (longAct s) := by
  obtain ⟨-, h⟩ | ⟨-, h⟩ := longAct_cases s
  · rw [h, advanceBright_eq]
    exact ⟨rfl, rfl, rfl, rfl⟩
  · rw [h, capture_eq]
    exact ⟨rfl, rfl, rfl, rfl⟩

theorem tickCycle_keepsOutside (p : Bool) (s : State) : KeepsOutside s (tickCycle p s) := by
  obtain ⟨-, -, -, toHold⟩ | ⟨-, -, -, holding⟩ | ⟨-, -, waiting⟩ | ⟨-, c, -, -, animating⟩ | ⟨-, -, released⟩ |
    ⟨-, -, -, short⟩ | ⟨-, c, -, -, long⟩ := tickCycle_cases p s
  · rw [toHold]
    exact ⟨rfl, rfl, rfl, rfl⟩
  · rw [holding]
    exact ⟨rfl, rfl, rfl, rfl⟩
  · rw [waiting]
    exact ⟨rfl, rfl, rfl, rfl⟩
  · rw [animating]
    exact anim_keepsOutside (s.setCnt c)
  · rw [released]
    exact anim_keepsOutside (s.setFsm .idle)
  · rw [short]
    exact anim_keepsOutside (((advanceColor s).setCnt 0).setFsm .idle)
  · rw [long]
    exact longAct_keepsOutside (s.setCnt c)

theorem exec_keepsOutside {i : Instr} {s t : State} (h : exec i s = .next t) : KeepsOutside s t := by
  obtain ⟨l, -, rfl⟩ | rfl | ⟨k, -, -, rfl⟩ | ⟨k, -, -, rfl⟩ := exec_cases h
  · exact tickCycle_keepsOutside _ s
  · exact ⟨rfl, rfl, rfl, rfl⟩
  · exact ⟨rfl, rfl, rfl, rfl⟩
  · exact ⟨rfl, rfl, rfl, rfl⟩

/-- Settles O17: the next state of each command, and its frame. -/
theorem everyCommandCompletes : Obligations.EveryCommandCompletes := by
  unfold Obligations.EveryCommandCompletes
  intro i s hadm
  obtain ⟨t, ht⟩ := exec_completes hadm i
  exact ⟨t, ht, exec_keepsOutside ht⟩

/-! ## What a command appends to the trace -/

/-- `j` is the advanced index of a report from `s` to `t` (R37, R130, R131). -/
def ReportsAdvance (s t : State) (j : Byte) : ReportKind → Prop
  | .color => j = t.cidx ∧ t.cidx = wrapInc s.cidx s.cfg.nColor
  | .bright => j = t.bidx ∧ t.bidx = wrapInc s.bidx s.cfg.nBright

/-- The events that a command can append from `s` to `t`: no report, with `cur` held (none, a blank, the flashes of a capture);
the frame of an animation; or the report and the frame of a TICK that leaves HOLD. -/
inductive Emission (i : Instr) (s t : State) : List Event → Prop
  | unreported {evs : List Event} (hcur : t.cur = s.cur) (hevs : ∀ k j, Event.report k j ∉ evs) : Emission i s t evs
  | animation : Emission i s t [.frame t.cur]
  | advance {l : ButtonLevel} {k : ReportKind} {j : Byte} (htick : i = .tick l) (hold : s.fsm = .hold)
      (left : t.fsm ≠ .hold) (hj : ReportsAdvance s t j k) : Emission i s t [.report k j, .frame t.cur]

theorem exists_emission_of_silent {i : Instr} {s t : State} (hcur : t.cur = s.cur) (htrace : t.trace = s.trace) :
    ∃ evs, t.trace = s.trace ++ evs ∧ Emission i s t evs :=
  ⟨[], by rw [htrace, List.append_nil], .unreported hcur (by simp)⟩

theorem report_not_mem_flashEvents (q : Tuple) (n : Nat) (k : ReportKind) (j : Byte) :
    Event.report k j ∉ flashEvents q n := by
  simp [flashEvents]

theorem anim_trace (s : State) : (anim s).trace = s.trace ++ [Event.frame (anim s).cur] := by
  conv_lhs => rw [anim_frame]

theorem anim_cidx (s : State) : (anim s).cidx = s.cidx := by rw [anim_frame]

theorem shortPress_cidx (s : State) : (shortPress s).cidx = wrapInc s.cidx s.cfg.nColor := by
  rw [shortPress, anim_cidx]
  rfl

theorem shortPress_trace (s : State) :
    (shortPress s).trace =
      s.trace ++ [Event.report .color (wrapInc s.cidx s.cfg.nColor)] ++ [Event.frame (shortPress s).cur] := by
  rw [shortPress, anim_trace]
  rfl

/-- The long press reports an advanced brightness, or flashes without a report (R131, R134, R166). -/
theorem longPress_emission {s : State} (l : ButtonLevel) (hold : s.fsm = .hold) (c : Byte) :
    ∃ evs, (longPress (s.setCnt c)).trace = s.trace ++ evs ∧ Emission (.tick l) s (longPress (s.setCnt c)) evs := by
  have left : (longPress (s.setCnt c)).fsm ≠ .hold := by simp
  obtain ⟨-, h⟩ | ⟨-, h⟩ := longAct_cases (s.setCnt c)
  · rw [longPress, h, advanceBright_eq] at left ⊢
    exact ⟨_, List.append_assoc _ _ _, .advance (k := .bright) rfl hold left ⟨rfl, rfl⟩⟩
  · rw [longPress, h, capture_eq]
    exact ⟨_, rfl, .unreported rfl (report_not_mem_flashEvents _ _)⟩

theorem tickCycle_emission (l : ButtonLevel) (s : State) :
    ∃ evs, (tickCycle (pressed l) s).trace = s.trace ++ evs ∧
      Emission (.tick l) s (tickCycle (pressed l) s) evs := by
  obtain ⟨-, -, -, toHold⟩ | ⟨-, -, -, holding⟩ | ⟨-, -, waiting⟩ | ⟨-, c, -, -, animating⟩ | ⟨-, -, released⟩ |
    ⟨hold, -, -, short⟩ | ⟨hold, c, -, -, long⟩ := tickCycle_cases (pressed l) s
  · rw [toHold]
    exact ⟨[.frame Tuple.zero], rfl, .unreported rfl (by simp)⟩
  · rw [holding]
    exact exists_emission_of_silent rfl rfl
  · rw [waiting]
    exact exists_emission_of_silent rfl rfl
  · rw [animating]
    exact ⟨_, anim_trace (s.setCnt c), .animation⟩
  · rw [released]
    exact ⟨_, anim_trace (s.setFsm .idle), .animation⟩
  · have left : (shortPress s).fsm ≠ .hold := by simp
    have hcidx := shortPress_cidx s
    rw [short]
    exact ⟨_, (shortPress_trace s).trans (List.append_assoc _ _ _),
      .advance (k := .color) rfl hold left ⟨hcidx.symm, hcidx⟩⟩
  · rw [long]
    exact longPress_emission l hold c

theorem exec_emission {i : Instr} {s t : State} (h : exec i s = .next t) :
    ∃ evs, t.trace = s.trace ++ evs ∧ Emission i s t evs := by
  obtain ⟨l, rfl, rfl⟩ | rfl | ⟨k, -, -, rfl⟩ | ⟨k, -, -, rfl⟩ := exec_cases h
  · exact tickCycle_emission l s
  · exact exists_emission_of_silent rfl rfl
  · exact exists_emission_of_silent rfl rfl
  · exact exists_emission_of_silent rfl rfl

/-- Settles O20: the one kind of emission that holds a report is that of an advance. -/
theorem reportsComeFromAdvancesOnly : Obligations.ReportsComeFromAdvancesOnly := by
  unfold Obligations.ReportsComeFromAdvancesOnly
  intro i s t h
  obtain ⟨evs, htrace, emission⟩ := exec_emission h
  refine ⟨evs, htrace, fun k j hmem => ?_⟩
  cases emission with
  | unreported _ hevs => exact absurd hmem (hevs k j)
  | animation => simp at hmem
  | @advance l k' j' htick hold left hj =>
    obtain ⟨rfl, rfl⟩ : k = k' ∧ j = j' := by simpa using hmem
    exact ⟨⟨l, htick⟩, hold, left, fun hk => by rwa [hk] at hj, fun hk => by rwa [hk] at hj⟩

/-- Settles O22: an emission without a report holds `cur` or is the frame of an animation, and after a report stands the frame
of the new `cur` (R33). -/
theorem curStaysOrIsTheLastFrame : Obligations.CurStaysOrIsTheLastFrame := by
  unfold Obligations.CurStaysOrIsTheLastFrame
  intro i s t h
  obtain ⟨evs, htrace, emission⟩ := exec_emission h
  cases emission with
  | unreported hcur _ => exact .inl hcur
  | animation => exact .inr ⟨[], by simpa using htrace⟩
  | @advance l k j => exact .inr ⟨[.report k j], by simpa using htrace⟩

/-! ## The step -/

/-- Under an admitted configuration every operation has a next state, so every step has (R200). -/
theorem step_completes {s : State} (hadm : s.cfg.admitted = true) : ∃ t, step s = .next t := by
  have hcfg {t : State} (ht : DiffersAtPorts s t) : t.cfg.admitted = true := cfg_eq_of_differsAtPorts ht ▸ hadm
  have hfrom := nextOperation_from s
  unfold step
  generalize nextOperation s = op at hfrom ⊢
  cases op with
  | rest | reset | ignored | stalled => exact ⟨_, withConfig_of_admitted (hcfg hfrom.1) _⟩
  | accepted i => exact exec_completes (hcfg hfrom.1) i

/-- Settles O16: a step or a command has a next state under an admitted configuration and is refused under any other. -/
theorem noOperationFails : Obligations.NoOperationFails := by
  unfold Obligations.NoOperationFails
  intro s
  refine ⟨step_completes, fun f hf => ?step, fun i f hf => ?exec⟩
  all_goals cases hadm : s.cfg.admitted
  case step.false => simp [step_of_not_admitted hadm] at hf
  case step.true =>
    obtain ⟨t, ht⟩ := step_completes hadm
    simp [ht] at hf
  case exec.false => simp [exec_of_not_admitted hadm] at hf
  case exec.true =>
    obtain ⟨t, ht⟩ := exec_completes hadm i
    simp [ht] at hf

/-- Settles O50: the check of the configuration taken apart, and the refusal of every operation where it fails. -/
theorem initialIndicesMustBeInRange : Obligations.InitialIndicesMustBeInRange := by
  unfold Obligations.InitialIndicesMustBeInRange
  refine ⟨fun c => ?_, fun s hadm => ⟨step_of_not_admitted hadm, exec_of_not_admitted hadm⟩⟩
  rw [Config.admitted_iff, Config.initInRange, decide_eq_true_iff]
  rfl

theorem runAccepted_command (i : Instr) (s : State) : runAccepted [.command i] s = exec i s := by
  rw [runAccepted, runOne]
  cases exec i s <;> rfl

theorem runAccepted_reset {s : State} (hadm : s.cfg.admitted = true) : runAccepted [.reset] s = .next (doReset s) := by
  rw [runAccepted, runOne, withConfig_of_admitted hadm]
  rfl

/-- A step that answers a next state has an admitted configuration (R7). -/
theorem admitted_of_step {s t : State} (h : step s = .next t) : s.cfg.admitted = true := by
  by_contra hadm
  rw [step_of_not_admitted (Bool.eq_false_iff.mpr hadm)] at h
  cases h

/-- Settles O18: of the three kinds of step, a command only appends to the trace, and the others leave it alone. -/
theorem stepIsAtMostOneOperation : Obligations.StepIsAtMostOneOperation := by
  unfold Obligations.StepIsAtMostOneOperation
  intro s t h
  obtain ⟨i, u, ⟨ts, ws, hs, rfl⟩, -, -, hexec⟩ | ⟨u, ⟨ts, ws, hs, rfl⟩, -, rfl⟩ | ⟨ts, ws, hs, rfl⟩ := step_cases h
  · obtain ⟨hcfg, htick, hhost, hturns⟩ := exec_keepsOutside hexec
    obtain ⟨evs, htrace, -⟩ := exec_emission hexec
    refine ⟨hcfg, ⟨evs, htrace⟩, [.command i], Nat.le_refl 1, ?_⟩
    rw [htick, hhost, hturns, runAccepted_command]
    exact hexec
  · have hadm := admitted_of_step h
    exact ⟨rfl, ⟨[], (List.append_nil _).symm⟩, [.reset], Nat.le_refl 1,
      runAccepted_reset (s := { s with turns := ts, tickWords := ws, hostWords := hs }) hadm⟩
  · exact ⟨rfl, ⟨[], (List.append_nil _).symm⟩, [], Nat.zero_le 1, rfl⟩

/-! ## The step of each turn -/

theorem nextOperation_of_no_turns {s : State} (h : s.turns = []) : nextOperation s = .rest s := by
  simp [nextOperation, h]

/-- Settles O19: with no turn left the block rests (R210). -/
theorem nothingChangesWithoutACommand : Obligations.NothingChangesWithoutACommand := by
  unfold Obligations.NothingChangesWithoutACommand
  intro s hadm hturns
  rw [step, nextOperation_of_no_turns hturns]
  exact withConfig_of_admitted hadm s

theorem tickPortTurn_of_ok {s : State} {w : Word} {ws : List Word} {i : Instr} (hw : s.tickWords = w :: ws)
    (hd : decode .tickPort w = .ok i) : tickPortTurn s = .accepted i (s.setTickWords ws) := by
  simp [tickPortTurn, hw, hd]

/-- R78: a turn of tick_port executes the command that stands there. -/
theorem step_of_tickCommand {s : State} {us : List Turn} {w : Word} {ws : List Word} {i : Instr}
    (ht : s.turns = .port .tickPort :: us) (hw : s.tickWords = w :: ws) (hd : decode .tickPort w = .ok i) :
    step s = exec i { s with turns := us, tickWords := ws } := by
  have hop : nextOperation s = .accepted i ((s.setTurns us).setTickWords ws) :=
    (nextOperation_of_tickPort ht).trans (tickPortTurn_of_ok hw hd)
  rw [step, hop]
  rfl

/-- Settles O5: the step of a command at each port. -/
theorem stepRunsTheDecodedCommand : Obligations.StepRunsTheDecodedCommand := by
  unfold Obligations.StepRunsTheDecodedCommand
  exact fun s ts w ws i => ⟨step_of_tickCommand, fun ht hw hd hidle => step_of_hostCommand hidle ht hw hd⟩

theorem hostPortTurn_of_stalled {s : State} {w : Word} {ws : List Word} {i : Instr} (hidle : s.fsm ≠ .idle)
    (hw : s.hostWords = w :: ws) (hd : decode .hostPort w = .ok i) : hostPortTurn s = .stalled i s := by
  simp [hostPortTurn, hw, hd, cmdReady_of_ne_idle hidle]

/-- R78: outside IDLE a turn of host_port leaves the command that waits there. -/
theorem step_of_stalledCommand {s : State} {us : List Turn} {w : Word} {ws : List Word} {i : Instr}
    (hadm : s.cfg.admitted = true) (hidle : s.fsm ≠ .idle) (ht : s.turns = .port .hostPort :: us)
    (hw : s.hostWords = w :: ws) (hd : decode .hostPort w = .ok i) : step s = .next { s with turns := us } := by
  have hop : nextOperation s = .stalled i (s.setTurns us) :=
    (nextOperation_of_hostPort ht).trans (hostPortTurn_of_stalled hidle hw hd)
  rw [step, hop]
  exact withConfig_of_admitted (s := s.setTurns us) hadm _

/-- R78: a turn of tick_port takes its word, whether a command or ignored, and leaves host_port alone. -/
theorem step_of_tickWord {s : State} {us : List Turn} {w : Word} {ws : List Word} (hadm : s.cfg.admitted = true)
    (ht : s.turns = .port .tickPort :: us) (hw : s.tickWords = w :: ws) :
    ∃ t, step s = .next t ∧ t.tickWords = ws ∧ t.hostWords = s.hostWords ∧ t.turns = us := by
  cases hd : decode .tickPort w with
  | error e =>
    obtain ⟨hignored, -⟩ := ignoredWordsHaveNoEffect.2 s us w ws e hadm
    exact ⟨_, hignored ht hw hd, rfl, rfl, rfl⟩
  | ok i =>
    obtain ⟨t, hexec⟩ := exec_completes (s := { s with turns := us, tickWords := ws }) hadm i
    obtain ⟨-, outside⟩ := exec_keepsOutside hexec
    exact ⟨t, (step_of_tickCommand ht hw hd).trans hexec, outside⟩

/-- Settles O7: the step of each turn; and of the kinds of step, a host command is run in IDLE alone and an ignored word or a
stall holds `fsm` (R77, R78). -/
theorem hostCommandWaitsForIdle : Obligations.HostCommandWaitsForIdle := by
  unfold Obligations.HostCommandWaitsForIdle
  rintro s ts w ws ⟨hadm, -⟩
  refine ⟨step_of_tickWord hadm, fun ht hw e hd => ?ignored,
    fun ht hw i hd => ⟨fun hidle => ?accepted, fun hidle => ?stalled⟩,
    fun t hstep hfrom hto => ?backToIdle⟩
  case ignored =>
    obtain ⟨-, hignored⟩ := ignoredWordsHaveNoEffect.2 s ts w ws e hadm
    exact hignored ht hw hd
  case accepted =>
    obtain ⟨t, hexec⟩ := exec_completes (s := { s with turns := ts, hostWords := ws }) hadm i
    obtain ⟨-, -, hhost, -⟩ := exec_keepsOutside hexec
    exact ⟨t, (step_of_hostCommand hidle ht hw hd).trans hexec, hhost⟩
  case stalled => exact step_of_stalledCommand hadm hidle ht hw hd
  case backToIdle =>
    obtain ⟨i, u, -, hturns, hready, -⟩ | ⟨u, -, hturns, -⟩ | ⟨us, vs, hs, rfl⟩ := step_cases hstep
    · cases hport : i.port with
      | tickPort => exact ⟨u.turns, .inl (hport ▸ hturns)⟩
      | hostPort => exact absurd (hready hport) hfrom
    · exact ⟨u.turns, .inr hturns⟩
    · exact absurd hto hfrom

/-! ## A word that the host presents -/

theorem tableWord_toNat (w : Word) : tableWord 16 w.toNat = w := by
  rw [tableWord, Nat.mod_eq_of_lt w.isLt, BitVec.ofNat_toNat, BitVec.setWidth_eq]

/-- The table presents a command's word at the command's port (R71). -/
theorem portOf_of_decode {w : Word} {i : Instr} (h : decode i.port w = .ok i) : portOf w = i.port := by
  obtain ⟨hword, -⟩ := (decode_ok_iff i.port w i).mp h
  rw [decodeWord_eq_ok_iff] at hword
  obtain ⟨-, ⟨hop, -, rfl⟩ | ⟨hop, rfl⟩ | ⟨hop, rfl⟩⟩ := hword
  · rw [portOf, hop]
    rfl
  · rw [portOf, hop]
    rfl
  · rw [portOf, hop]
    rfl

/-- Settles O6: the word is presented at the command's port with the next turn, so the step takes both away again and runs the
command. -/
theorem presentedWordRunsNext : Obligations.PresentedWordRunsNext := by
  unfold Obligations.PresentedWordRunsNext
  intro s w i hd hidle
  rw [decodeTableWord, State.withFetchWord, tableWord_toNat, portOf_of_decode hd, hd]
  refine ⟨rfl, ?_⟩
  cases hport : i.port with
  | tickPort => exact step_of_tickCommand (s := presentWord .tickPort w s) rfl rfl (hport ▸ hd)
  | hostPort => exact step_of_hostCommand (s := presentWord .hostPort w s) (hidle hport) rfl rfl (hport ▸ hd)

end Sys2Proof.Machine
end

section
/-! The invariant (R40): each operation keeps it, so every step does; and the state after reset, which meets it (R39, R223). -/

namespace Sys2Proof.Machine

/-! ## The counter that each mode allows -/

theorem le_satInc (c : Config) (v : Byte) : v.toNat ≤ (satInc c v).toNat := by
  rw [satInc_toNat]
  split <;> omega

theorem satInc_le_succ (c : Config) (v : Byte) : (satInc c v).toNat ≤ v.toNat + 1 := by
  rw [satInc_toNat]
  split <;> omega

theorem counterOk_of_idle {s : State} (h : s.fsm = .idle) (hcnt : s.cnt.toNat ≤ s.cfg.shortTh)
    (hmax : s.cnt.toNat ≤ s.cfg.cntMax.toNat) : s.counterOk :=
  ⟨fun _ => hcnt, by simp [h], by simp [h], hmax⟩

theorem counterOk_of_hold {s : State} (h : s.fsm = .hold) (hshort : s.cfg.shortTh < s.cnt.toNat)
    (hlong : s.cnt.toNat ≤ s.cfg.longTh) (hmax : s.cnt.toNat ≤ s.cfg.cntMax.toNat) : s.counterOk :=
  ⟨by simp [h], fun _ => ⟨hshort, hlong⟩, by simp [h], hmax⟩

/-- A cleared counter is right outside HOLD. -/
theorem counterOk_of_cnt_zero {s : State} (h : s.fsm ≠ .hold) (hcnt : s.cnt = 0) : s.counterOk := by
  have hzero : s.cnt.toNat = 0 := by rw [hcnt]; rfl
  exact ⟨fun _ => by omega, fun hold => absurd hold h, fun _ => hcnt, by omega⟩

/-! ## The invariant and the writes of the counter and the mode -/

theorem inv_setCnt {s : State} (h : s.Inv) {c : Byte} (hcounter : (s.setCnt c).counterOk) : (s.setCnt c).Inv := by
  obtain ⟨hadm, hidx, -, hmem, hbr⟩ := h
  exact ⟨hadm, hidx, hcounter, hmem, hbr⟩

theorem inv_setCnt_setFsm {s : State} (h : s.Inv) {c : Byte} {f : Fsm}
    (hcounter : ((s.setCnt c).setFsm f).counterOk) : ((s.setCnt c).setFsm f).Inv := by
  obtain ⟨hadm, hidx, -, hmem, hbr⟩ := h
  exact ⟨hadm, hidx, hcounter, hmem, hbr⟩

theorem inv_emit {s : State} (h : s.Inv) (e : Event) : (s.emit e).Inv := h

/-! ## The invariant and the animation -/

/-- With three channels nothing advances the fourth phase (log entry 4). -/
theorem anim_phase_br {s : State} (h : s.cfg.nch = 3) : (anim s).phase.br = s.phase.br := by
  obtain ⟨p, q, hanim, hp⟩ := anim_cases s
  rw [hanim]
  obtain rfl | ⟨inc, -, rfl⟩ := hp
  · rfl
  · exact advanceLane_of_not_lt (c := .br) (by rw [h]; decide) inc _

theorem inv_anim {s : State} (h : s.Inv) : (anim s).Inv := by
  obtain ⟨hadm, hidx, hcounter, hmem, hbr⟩ := h
  have hphase : s.cfg.nch = 3 → (anim s).phase.br = s.cfg.phaseInit.br := fun hnch => (anim_phase_br hnch).trans (hbr hnch)
  rw [anim_frame]
  exact ⟨hadm, hidx, hcounter, hmem, hphase⟩

/-! ## The invariant and the selector -/

theorem inv_advanceColor {s : State} (h : s.Inv) : (advanceColor s).Inv := by
  obtain ⟨hadm, ⟨hcidx, hbidx, hsidx⟩, hcounter, hmem, hbr⟩ := h
  obtain ⟨-, hn, -⟩ := Config.counts_of_wf (Config.wf_of_admitted hadm)
  rw [advanceColor_eq]
  exact ⟨hadm, ⟨wrapInc_lt s.cidx s.cfg.nColor hcidx hn, hbidx, hsidx⟩, hcounter, hmem, hbr⟩

theorem inv_advanceBright {s : State} (h : s.Inv) : (advanceBright s).Inv := by
  obtain ⟨hadm, ⟨hcidx, hbidx, hsidx⟩, hcounter, hmem, hbr⟩ := h
  obtain ⟨-, -, -, hn⟩ := Config.counts_of_wf (Config.wf_of_admitted hadm)
  rw [advanceBright_eq]
  exact ⟨hadm, ⟨hcidx, wrapInc_lt s.bidx s.cfg.nBright hbidx hn, hsidx⟩, hcounter, hmem, hbr⟩

/-- The four bytes of a slot in range lie below the end of the slot memory. -/
theorem slotAddr_add_three_lt {k : Byte} {n : Nat} (h : k.toNat < n) : slotAddr k + 3 < 4 * n := by
  rw [slotAddr]
  omega

theorem inv_capture {s : State} (h : s.Inv) (hslots : 1 ≤ s.cfg.nSlots.val) : (capture s).Inv := by
  obtain ⟨hadm, ⟨hcidx, hbidx, hsidx⟩, hcounter, ⟨hwf, hbelow⟩, hbr⟩ := h
  have hnext := ofNat_mod_nSlots_toNat hslots (s.sidx.toNat + 1)
  rw [capture_of_lt (hsidx hslots)]
  refine ⟨hadm, ⟨hcidx, hbidx, fun _ => ?_⟩, hcounter, ⟨?_, ?_⟩, hbr⟩
  · exact hnext.trans_lt (Nat.mod_lt _ hslots)
  · exact Memory.wf_writeTuple _ _ _ hwf
  · exact Memory.below_writeTuple _ _ _ _ hbelow (slotAddr_add_three_lt (hsidx hslots))

theorem inv_longAct {s : State} (h : s.Inv) : (longAct s).Inv := by
  obtain ⟨-, hact⟩ | ⟨hcapture, hact⟩ := longAct_cases s
  · exact hact ▸ inv_advanceBright h
  · exact hact ▸ inv_capture h (Config.capture_of_wf (Config.wf_of_admitted h.1) hcapture)

/-- LONG_ACT neither reads nor writes the counter or the mode (R166). -/
theorem longAct_setCnt_setFsm (s : State) (c : Byte) (f : Fsm) :
    longAct ((s.setCnt c).setFsm f) = ((longAct s).setCnt c).setFsm f := by
  obtain ⟨hact, h⟩ | ⟨hact, h⟩ := longAct_cases s
  · rw [h, longAct_of_advBright (s := (s.setCnt c).setFsm f) hact]
    rfl
  · rw [h, longAct_of_capture (s := (s.setCnt c).setFsm f) hact, capture_eq, capture_eq]
    rfl

/-- The long press clears the counter and leaves the mode for RELWAIT, so nothing of either is left (R164). -/
theorem longPress_setCnt_setFsm (s : State) (c : Byte) (f : Fsm) : longPress ((s.setCnt c).setFsm f) = longPress s := by
  rw [longPress, longPress, longAct_setCnt_setFsm]
  rfl

theorem longPress_setCnt (s : State) (c : Byte) : longPress (s.setCnt c) = longPress s :=
  longPress_setCnt_setFsm s c s.fsm

theorem inv_longPress {s : State} (h : s.Inv) : (longPress s).Inv :=
  inv_setCnt_setFsm (inv_longAct h) (counterOk_of_cnt_zero (by simp) rfl)

/-! ## The invariant and the step -/

/-- Each case of a TICK leaves the counter in the bounds of the mode it ends in (R40 (d), (e), (f), R167). -/
theorem inv_tickCycle {s : State} (h : s.Inv) (p : Bool) : (tickCycle p s).Inv := by
  obtain ⟨hadm, -, ⟨hidle, hheld, hwait, hmax⟩, -, -⟩ := id h
  have hsucc := satInc_le_succ s.cfg s.cnt
  have hincmax := satInc_le_cntMax s.cfg s.cnt hmax
  obtain ⟨idle, -, hshort, toHold⟩ | ⟨hold, -, hlong, holding⟩ | ⟨-, -, waiting⟩ | ⟨idle, c, hc, hsample, animating⟩ |
    ⟨relwait, -, released⟩ | ⟨-, -, -, short⟩ | ⟨-, c, -, -, long⟩ := tickCycle_cases p s
  · have hth := Config.thresholds_of_wf (Config.wf_of_admitted hadm)
    have hcnt := hidle idle
    have hlong : (satInc s.cfg s.cnt).toNat ≤ s.cfg.longTh := by omega
    rw [toHold]
    exact inv_setCnt_setFsm (inv_emit h _) (counterOk_of_hold rfl hshort hlong hincmax)
  · obtain ⟨hgt, -⟩ := hheld hold
    rw [holding]
    exact inv_setCnt h (counterOk_of_hold hold (hgt.trans_le (le_satInc s.cfg s.cnt)) hlong hincmax)
  · rwa [waiting]
  · have hcmax : c.toNat ≤ s.cfg.cntMax.toNat := by
      obtain ⟨-, rfl⟩ | ⟨-, rfl⟩ := hsample
      · exact Nat.zero_le _
      · exact hincmax
    rw [animating]
    exact inv_anim (inv_setCnt h (counterOk_of_idle idle hc hcmax))
  · have hcounter : (s.setFsm .idle).counterOk := counterOk_of_cnt_zero (by simp) (hwait relwait)
    rw [released]
    exact inv_anim (inv_setCnt_setFsm h hcounter)
  · rw [short]
    exact inv_anim (inv_setCnt_setFsm (inv_advanceColor h) (counterOk_of_cnt_zero (by simp) rfl))
  · have hpress : tickCycle p s = longPress s := long.trans (longPress_setCnt s c)
    rw [hpress]
    exact inv_longPress h

theorem inv_exec {i : Instr} {s t : State} (h : s.Inv) (hexec : exec i s = .next t) : t.Inv := by
  obtain ⟨hadm, ⟨hcidx, hbidx, hsidx⟩, hcounter, hmem, hbr⟩ := id h
  obtain ⟨l, -, rfl⟩ | rfl | ⟨k, -, hk, rfl⟩ | ⟨k, -, hk, rfl⟩ := exec_cases hexec
  · exact inv_tickCycle h _
  · exact h
  · exact ⟨hadm, ⟨hk, hbidx, hsidx⟩, hcounter, hmem, hbr⟩
  · exact ⟨hadm, ⟨hcidx, hk, hsidx⟩, hcounter, hmem, hbr⟩

/-- The reset values meet the invariant under every admitted configuration (R39, R220). -/
theorem inv_doReset {s : State} (hadm : s.cfg.admitted = true) : (doReset s).Inv := by
  obtain ⟨hcidx, hbidx⟩ := Config.init_of_admitted hadm
  exact ⟨hadm, ⟨hcidx, hbidx, fun hslots => hslots⟩, counterOk_of_cnt_zero nofun rfl, ⟨rfl, rfl⟩, fun _ => rfl⟩

theorem inv_of_differsAtPorts {s t : State} (h : s.Inv) (ht : DiffersAtPorts s t) : t.Inv := by
  obtain ⟨ts, ws, hs, rfl⟩ := ht
  exact h

/-- Settles O15: a step is a command or a reset at a state that differs at the ports alone, or such a state (R40). -/
theorem stepKeepsTheInvariant : Obligations.StepKeepsTheInvariant := by
  unfold Obligations.StepKeepsTheInvariant
  intro s t h hstep
  obtain ⟨i, u, hu, -, -, hexec⟩ | ⟨u, hu, -, rfl⟩ | ht := step_cases hstep
  · exact inv_exec (inv_of_differsAtPorts h hu) hexec
  · exact inv_doReset (inv_of_differsAtPorts h hu).1
  · exact inv_of_differsAtPorts h ht

/-! ## The state after reset -/

/-- Settles O11: each register by computation, and an empty memory reads as 0 everywhere (R32, R39). -/
theorem registersAfterReset : Obligations.RegistersAfterReset := by
  unfold Obligations.RegistersAfterReset
  exact ⟨rfl, rfl, rfl, rfl, rfl, rfl, fun _ => rfl, rfl, rfl⟩

theorem inv_resetWith {c : Config} (hadm : c.admitted = true) : (State.resetWith c).Inv :=
  inv_doReset (s := State.resetWith c) hadm

/-- TC's checks read none of its free values (log entry 1). -/
theorem resetConfig_admitted : resetConfig.admitted = true := by decide +kernel

/-- The initial indices 0 are in range, since R7 (c) asks for a plan and a level. -/
theorem admitted_of_init_zero {c : Config} (hwf : c.wellFormed = true) (hcidx : c.cidxInit = 0) (hbidx : c.bidxInit = 0) :
    c.admitted = true := by
  obtain ⟨hcolor, -, hbright, -⟩ := Config.counts_of_wf hwf
  have hinit : c.initInRange = true := by
    rw [Config.initInRange, hcidx, hbidx]
    exact decide_eq_true ⟨hcolor, hbright⟩
  exact c.admitted_iff.mpr ⟨hwf, hinit⟩

/-- Settles O12: the invariant of the reset values, and the admission of the initial indices 0 (log entry 6). -/
theorem resetStateMeetsTheInvariant : Obligations.ResetStateMeetsTheInvariant := by
  unfold Obligations.ResetStateMeetsTheInvariant
  exact ⟨inv_resetWith resetConfig_admitted, fun _ => inv_resetWith, fun _ => admitted_of_init_zero⟩

/-- Settles O14: the thresholds are quotients by definition, and the source's times are 5 and 25 periods. -/
theorem thresholdsAreQuotients : Obligations.ThresholdsAreQuotients := by
  unfold Obligations.ThresholdsAreQuotients
  refine fun c => ⟨rfl, rfl, fun hperiod hshort hlong => ?_⟩
  rw [Config.shortTh, Config.longTh, hperiod, hshort, hlong]
  decide

/-- In IDLE, a sample of either level that cannot carry the counter past `SHORT_TH` animates (R162). -/
theorem tickIdle_animates {s : State} (h : (satInc s.cfg s.cnt).toNat ≤ s.cfg.shortTh) (l : ButtonLevel) :
    ∃ c : Byte, c.toNat ≤ (satInc s.cfg s.cnt).toNat ∧ tickIdle (pressed l) s = anim (s.setCnt c) := by
  obtain rfl | rfl := buttonLevel_cases l
  · exact ⟨_, le_rfl, tickIdle_pressed_of_le h⟩
  · exact ⟨0, Nat.zero_le _, tickIdle_released s⟩

@[simp] theorem anim_cnt (s : State) : (anim s).cnt = s.cnt := by rw [anim_frame]

/-- In IDLE at the counter 0 one sample counts at most to 1, which does not pass a `SHORT_TH` of at least 1. -/
theorem execTick_of_idle_zero {s : State} (hadm : s.cfg.admitted = true) (hidle : s.fsm = .idle) (hcnt : s.cnt = 0)
    (hshort : 1 ≤ s.cfg.shortTh) (l : ButtonLevel) :
    ∃ c : Byte, c.toNat ≤ 1 ∧ exec (.tick l) s = .next (anim (s.setCnt c)) := by
  have hinc : (satInc s.cfg s.cnt).toNat ≤ 1 := by
    rw [hcnt]
    exact satInc_le_succ s.cfg 0
  obtain ⟨c, hc, htick⟩ := tickIdle_animates (hinc.trans hshort) l
  exact ⟨c, hc.trans hinc, by rw [execTick_of_idle hadm hidle, htick]⟩

/-- Settles O13: the state after reset is in IDLE at the counter 0, so its first sample animates (R223). -/
theorem firstTickAfterResetAnimates : Obligations.FirstTickAfterResetAnimates := by
  unfold Obligations.FirstTickAfterResetAnimates
  intro c l hadm hshort
  obtain ⟨n, hn, htick⟩ := execTick_of_idle_zero (s := State.resetWith c) hadm rfl rfl hshort l
  exact ⟨_, _, htick, anim_trace _, rfl, anim_fsm _, by rwa [anim_cnt]⟩

end Sys2Proof.Machine
end

section
/-! The tables and the lanes (R101 to R104, R109), and the slot memory with its recall (R51, R107, R134). -/

namespace Sys2Proof

theorem Config.gamma_of_wf {c : Config} (h : c.wellFormed = true) :
    (∀ u v : Fin 256, u ≤ v → c.gammaLut[u].toNat ≤ c.gammaLut[v].toNat) ∧
      c.gammaLut[0] = 0 ∧ c.gammaLut[255] = 255 := by
  obtain ⟨-, -, -, -, -, -, -, hgamma⟩ := c.wellFormed_iff.mp h
  exact c.gammaOk_iff.mp hgamma

end Sys2Proof

namespace Sys2Proof.Machine

/-! ## The sine sample, the floor, gamma and the brightness -/

theorem sineIndex_eq_of_bits {p q : Word} (h : p.toNat / 256 % 128 = q.toNat / 256 % 128) : sineIndex p = sineIndex q := by
  rw [← BitVec.toNat_inj, sineIndex_toNat, sineIndex_toNat, h]

/-- Settles O25: the sample on numbers, and its index is a function of bits 14:8 (R101). -/
theorem sineSampleReadsBits14To8 : Obligations.SineSampleReadsBits14To8 := by
  unfold Obligations.SineSampleReadsBits14To8
  refine fun s c => ⟨sineSample_eq_sinePoint s c, fun s' c' hcfg hbits => ?_⟩
  rw [sineSample, sineSample, hcfg, sineIndex_eq_of_bits hbits]

theorem floorOf_of_enabled {c : Config} (h : c.floorEn = true) (v : Byte) : floorOf c v = v + c.floorVal := if_pos h

theorem floorOf_of_disabled {c : Config} (h : c.floorEn = false) (v : Byte) : floorOf c v = v := by
  rw [floorOf, h, if_neg Bool.false_ne_true]

/-- Settles O26: a sum of bytes, and its values around the wrap (R102). -/
theorem floorWrapsModulo256 : Obligations.FloorWrapsModulo256 := by
  unfold Obligations.FloorWrapsModulo256
  refine fun c v => ⟨fun hen => ?_, fun hen => floorOf_of_disabled hen v, fun hen hval => ?_⟩
  · rw [floorOf_of_enabled hen, BitVec.toNat_add]
  · simp only [floorOf_of_enabled hen, hval]
    decide

theorem gammaOf_of_enabled {c : Config} (h : c.gammaEn = true) (v : Byte) : gammaOf c v = c.gammaLut[v.toNat] := if_pos h

theorem gammaOf_of_disabled {c : Config} (h : c.gammaEn = false) (v : Byte) : gammaOf c v = v := by
  rw [gammaOf, h, if_neg Bool.false_ne_true]

/-- R7 (h) orders the table's entries, and without the table GAMMA is the identity. -/
theorem gammaOf_mono {c : Config} (h : c.wellFormed = true) {u v : Byte} (huv : u.toNat ≤ v.toNat) :
    (gammaOf c u).toNat ≤ (gammaOf c v).toNat := by
  cases hen : c.gammaEn with
  | false => rwa [gammaOf_of_disabled hen, gammaOf_of_disabled hen]
  | true =>
    rw [gammaOf_of_enabled hen, gammaOf_of_enabled hen]
    exact (Config.gamma_of_wf h).1 ⟨u.toNat, u.isLt⟩ ⟨v.toNat, v.isLt⟩ huv

theorem gammaOf_endpoints {c : Config} (h : c.wellFormed = true) : gammaOf c 0 = 0 ∧ gammaOf c 255 = 255 := by
  cases hen : c.gammaEn with
  | false => exact ⟨gammaOf_of_disabled hen 0, gammaOf_of_disabled hen 255⟩
  | true =>
    rw [gammaOf_of_enabled hen, gammaOf_of_enabled hen]
    exact (Config.gamma_of_wf h).2

/-- Settles O27: order and endpoints by R7 (h), and the exact entry as the formula on numbers (R103). -/
theorem gammaKeepsOrderAndEndpoints : Obligations.GammaKeepsOrderAndEndpoints := by
  unfold Obligations.GammaKeepsOrderAndEndpoints
  intro c hwf
  obtain ⟨hzero, hmax⟩ := gammaOf_endpoints hwf
  exact ⟨fun u v => gammaOf_mono hwf, hzero, hmax, gammaOf_eq_gammaPoint c⟩

/-- A byte divided by 8 is at most 31. -/
theorem brightPoint_le_31 {c : Config} (hsrc : c.brightSrc = .phase) (hshift : c.brightShift = 3) (b : Byte) (p : Word) :
    (brightPoint c b p).toNat ≤ 31 := by
  have hs := (sinePoint c p).isLt
  rw [brightPoint, hsrc, hshift, BitVec.toNat_ofNat]
  omega

theorem brightOf_of_level {s : State} {v m : Byte} (hsrc : s.cfg.brightSrc = .level) (hmask : s.cfg.brightMask = m)
    (hv : s.cfg.level[s.bidx.toNat]? = some v) : brightOf s = v &&& m := by
  rw [brightOf, hsrc, maskedLevel, State.activeLevel, hv, hmask]
  rfl

/-- Settles O28: the brightness on numbers, its bound from the phase, and the masked values of the named levels (R104). -/
theorem brightnessFromLevelOrPhase : Obligations.BrightnessFromLevelOrPhase := by
  unfold Obligations.BrightnessFromLevelOrPhase
  intro s hbidx
  refine ⟨brightOf_eq_brightPoint hbidx, fun hsrc hshift => brightPoint_le_31 hsrc hshift _ _, fun hsrc hmask => ?_,
    fun hsrc hmask => ?_⟩
  · exact ⟨brightOf_of_level hsrc hmask, brightOf_of_level hsrc hmask, brightOf_of_level hsrc hmask,
      brightOf_of_level hsrc hmask⟩
  · exact ⟨brightOf_of_level hsrc hmask, brightOf_of_level hsrc hmask, brightOf_of_level hsrc hmask⟩

/-! ## The lanes -/

/-- Settles O31: a lane's phase after the advance is one function of its own phase and increment, and the sample and the colour
are functions of that phase (R109). -/
theorem lanesAreIndependent : Obligations.LanesAreIndependent := by
  unfold Obligations.LanesAreIndependent
  intro s s' inc inc' c hcfg hphase hinc
  have hlane : phaseOf (phaseAdvance inc' s').phase c = phaseOf (phaseAdvance inc s).phase c := by
    rw [phaseAdvance_phase, phaseAdvance_phase, phaseOf_advancePhases, phaseOf_advancePhases, hphase, hcfg, advanceLane,
      advanceLane, incOf, incOf, hinc]
  refine ⟨hlane, ?_, ?_⟩
  · rw [sineSample_eq_sinePoint, sineSample_eq_sinePoint, hlane, phaseAdvance_cfg, phaseAdvance_cfg, hcfg]
  · rw [colour_eq_colourPoint, colour_eq_colourPoint, hlane, phaseAdvance_cfg, phaseAdvance_cfg, hcfg]

/-! ## The slot memory -/

/-- Different slots have different addresses four apart. -/
theorem slotAddr_apart {k k' : Byte} (h : k' ≠ k) : slotAddr k' + 3 < slotAddr k ∨ slotAddr k + 3 < slotAddr k' := by
  have hne : k'.toNat ≠ k.toNat := mt BitVec.eq_of_toNat_eq h
  rw [slotAddr, slotAddr]
  omega

/-- A tuple write leaves the tuples that do not overlap it (R51). -/
theorem Memory.readTuple_writeTuple_other (m : Memory) {a a' : Nat} (q : Tuple) (h : m.wf = true)
    (hapart : a' + 3 < a ∨ a + 3 < a') : (m.writeTuple a q).readTuple a' = m.readTuple a' := by
  have hread (j : Nat) (hj : j ≤ 3) : (m.writeTuple a q).read (a' + j) = m.read (a' + j) :=
    Memory.read_writeTuple_outside m a (a' + j) q h (by omega)
  rw [Memory.readTuple, Memory.readTuple, hread 1 (by omega), hread 2 (by omega), hread 3 (by omega)]
  exact congrArg (Tuple.mk · _ _ _) (hread 0 (by omega))

/-- Settles O40: the written slot, the slots apart from it, and the canonical form (R51, R57). -/
theorem slotReadsBackWholeTuple : Obligations.SlotReadsBackWholeTuple := by
  unfold Obligations.SlotReadsBackWholeTuple
  intro m k k' q hwf
  refine ⟨?_, fun hne => ?_, ?_⟩
  · exact Memory.readTuple_writeTuple_same m _ q hwf
  · exact Memory.readTuple_writeTuple_other m q hwf (slotAddr_apart hne)
  · exact Memory.wf_writeTuple m _ q hwf

theorem Memory.wfFrom_cons {lo a : Nat} {v : Byte} {m : Memory} :
    Memory.wfFrom lo ((a, v) :: m) = true ↔ lo ≤ a ∧ v ≠ 0#8 ∧ Memory.wfFrom (a + 1) m = true := by
  simp [Memory.wfFrom, and_assoc]

@[simp] theorem Memory.read_cons_same (a : Nat) (v : Byte) (m : Memory) : Memory.read ((a, v) :: m) a = v := if_pos rfl

theorem Memory.read_cons_of_ne {a a' : Nat} (h : a' ≠ a) (v : Byte) (m : Memory) :
    Memory.read ((a, v) :: m) a' = m.read a' := if_neg h

/-- The first address of a canonical memory is listed in no canonical memory that begins above it, so equal reads ask for the
same first address. -/
theorem Memory.first_le_of_read_eq {lo a b : Nat} {v w : Byte} {m m' : Memory}
    (h : Memory.wfFrom lo ((a, v) :: m) = true) (h' : Memory.wfFrom lo ((b, w) :: m') = true)
    (hread : ∀ x, Memory.read ((a, v) :: m) x = Memory.read ((b, w) :: m') x) : b ≤ a := by
  obtain ⟨-, hv, -⟩ := Memory.wfFrom_cons.mp h
  obtain ⟨-, hw, hm'⟩ := Memory.wfFrom_cons.mp h'
  by_contra hlt
  have hcanonical : Memory.wfFrom b ((b, w) :: m') = true := Memory.wfFrom_cons.mpr ⟨le_rfl, hw, hm'⟩
  have hzero := Memory.read_below _ b a hcanonical (not_le.mp hlt)
  rw [← hread, Memory.read_cons_same] at hzero
  exact hv hzero

/-- A canonical memory with an entry does not read as the empty one. -/
theorem Memory.not_read_eq_zero_of_cons {lo a : Nat} {v : Byte} {m : Memory}
    (h : Memory.wfFrom lo ((a, v) :: m) = true) : ¬ ∀ x, Memory.read ((a, v) :: m) x = 0#8 := by
  obtain ⟨-, hv, -⟩ := Memory.wfFrom_cons.mp h
  intro hzero
  exact hv (Memory.read_cons_same a v m ▸ hzero a)

/-- Canonical memories are determined by their reads: the first entries agree, and so do the reads of the rest. -/
theorem Memory.eq_of_read_eq {m m' : Memory} {lo : Nat} (h : Memory.wfFrom lo m = true) (h' : Memory.wfFrom lo m' = true)
    (hread : ∀ a, m.read a = m'.read a) : m = m' := by
  induction m generalizing m' lo with
  | nil =>
    cases m' with
    | nil => rfl
    | cons c m' => exact absurd (fun x => (hread x).symm) (Memory.not_read_eq_zero_of_cons h')
  | cons c m ih =>
    obtain ⟨a, v⟩ := c
    cases m' with
    | nil => exact absurd hread (Memory.not_read_eq_zero_of_cons h)
    | cons c' m' =>
      obtain ⟨b, w⟩ := c'
      obtain rfl : a = b :=
        le_antisymm (Memory.first_le_of_read_eq h' h fun x => (hread x).symm) (Memory.first_le_of_read_eq h h' hread)
      obtain rfl : v = w := by simpa using hread a
      obtain ⟨-, -, hm⟩ := Memory.wfFrom_cons.mp h
      obtain ⟨-, -, hm'⟩ := Memory.wfFrom_cons.mp h'
      have hrest (x : Nat) : Memory.read m x = Memory.read m' x := by
        by_cases hx : x = a
        · rw [hx, Memory.read_below m (a + 1) a hm (Nat.lt_succ_self a),
            Memory.read_below m' (a + 1) a hm' (Nat.lt_succ_self a)]
        · simpa only [Memory.read_cons_of_ne hx] using hread x
      rw [ih hm hm' hrest]

/-- Settles O41, from the lower bound 0 on the addresses. -/
theorem equalReadsMeanEqualMemories : Obligations.EqualReadsMeanEqualMemories := by
  unfold Obligations.EqualReadsMeanEqualMemories
  exact fun m m' h h' hread => Memory.eq_of_read_eq h h' hread

/-- Settles O42: the Custom plan reads the slot that the capture wrote (R107, R134). -/
theorem capturedTupleIsRecalled : Obligations.CapturedTupleIsRecalled := by
  unfold Obligations.CapturedTupleIsRecalled
  intro s u hwf hsidx hslot hcfg hplan
  have hinRange : s.sidx.toNat < u.cfg.nSlots.val := hcfg ▸ hsidx
  have hrecalled : u.readSlot s.sidx = s.cur := by
    rw [readSlot_eq hinRange, hslot, capture_of_lt hsidx]
    exact Memory.readTuple_writeTuple_same s.slot _ s.cur hwf
  rw [anim_of_custom hplan, animCustom, hrecalled, render_eq]

end Sys2Proof.Machine
end

section
/-! The button (R160 to R168, R225, R226): the counter over many samples, the frame of a TICK, and what runs of samples do. -/

namespace Sys2Proof.Machine

/-! ## The counter -/

/-- Settles O43: the counter that DEBOUNCE writes, by `sat_inc` or 0 (R160). -/
theorem debounceSaturates : Obligations.DebounceSaturates := by
  unfold Obligations.DebounceSaturates
  intro s
  have hcnt : (debounce true s).cnt = satInc s.cfg s.cnt := rfl
  refine ⟨rfl, rfl, fun hlt => ?_, fun hnlt => ?_⟩
  · rw [hcnt, satInc_toNat, if_pos hlt]
  · rw [hcnt, satInc, if_neg hnlt]

/-- `m` pressed samples count by `m`, up to `CNT_MAX`. -/
theorem iterate_satInc_toNat {c : Config} {v : Byte} (hv : v.toNat ≤ c.cntMax.toNat) (m : Nat) :
    ((satInc c)^[m] v).toNat = min (v.toNat + m) c.cntMax.toNat := by
  induction m with
  | zero => exact (min_eq_left hv).symm
  | succ m ih =>
    rw [Function.iterate_succ_apply', satInc_toNat, ih]
    split <;> omega

theorem setCnt_eq_self {s : State} {c : Byte} (h : s.cnt = c) : s.setCnt c = s := by
  subst h
  rfl

theorem setFsm_eq_self {s : State} {f : Fsm} (h : s.fsm = f) : s.setFsm f = s := by
  subst h
  rfl

theorem setCnt_setFsm_eq_self {s : State} {c : Byte} {f : Fsm} (hc : s.cnt = c) (hf : s.fsm = f) :
    (s.setCnt c).setFsm f = s := by
  rw [setCnt_eq_self hc, setFsm_eq_self hf]

/-! ## The frame of a TICK -/

theorem pressed_eq_false_iff (l : ButtonLevel) : pressed l = false ↔ l = 1 := by
  obtain rfl | rfl := buttonLevel_cases l
  · simp [pressed]
  · simp [pressed]

theorem pressed_eq_true_iff (l : ButtonLevel) : pressed l = true ↔ l = 0 := by simp [pressed]

/-- What a TICK can do where the counter of a HOLD is in its bound: write the counter, the mode and the trace alone; animate in
IDLE; a short press; or a long press, exactly when it is due. -/
theorem tickCycle_outcomes {s : State} (hcnt : s.fsm = .hold → s.cnt.toNat ≤ s.cfg.longTh) (l : ButtonLevel) :
    (¬ s.longPressDue l ∧ ∃ c f evs, tickCycle (pressed l) s = { s with cnt := c, fsm := f, trace := evs }) ∨
    (¬ s.longPressDue l ∧ ∃ c, tickCycle (pressed l) s = anim ((s.setCnt c).setFsm .idle)) ∨
    (s.fsm = .hold ∧ l = 1 ∧ tickCycle (pressed l) s = shortPress s) ∨
    (s.longPressDue l ∧ tickCycle (pressed l) s = longPress s) := by
  obtain ⟨idle, -, -, toHold⟩ | ⟨-, -, hlong, holding⟩ | ⟨relwait, -, waiting⟩ | ⟨idle, c, -, -, animating⟩ |
    ⟨relwait, -, released⟩ | ⟨hold, hl, -, short⟩ | ⟨hold, c, hsample, hlong, long⟩ := tickCycle_cases (pressed l) s
  · exact .inl ⟨by simp [idle], _, _, _, toHold⟩
  · exact .inl ⟨by simp [hlong], _, _, _, holding⟩
  · exact .inl ⟨by simp [relwait], _, _, _, waiting⟩
  · exact .inr (.inl ⟨by simp [idle], c, by rw [animating, ← idle]; rfl⟩)
  · exact .inr (.inl ⟨by simp [relwait], s.cnt, released⟩)
  · exact .inr (.inr (.inl ⟨hold, (pressed_eq_false_iff l).mp hl, short⟩))
  · obtain ⟨-, rfl⟩ | ⟨hp, rfl⟩ := hsample
    · exact absurd hlong (Nat.not_lt.mpr (hcnt hold))
    · exact .inr (.inr (.inr ⟨⟨hold, (pressed_eq_true_iff l).mp hp, hlong⟩, long.trans (longPress_setCnt s _)⟩))

/-- ANIM writes the phases, `cur` and the trace alone. -/
theorem anim_keepsSelector (s : State) :
    (anim s).cidx = s.cidx ∧ (anim s).bidx = s.bidx ∧ (anim s).sidx = s.sidx ∧ (anim s).slot = s.slot := by
  rw [anim_frame]
  exact ⟨rfl, rfl, rfl, rfl⟩

theorem longAct_cidx (s : State) : (longAct s).cidx = s.cidx := by
  obtain ⟨-, h⟩ | ⟨-, h⟩ := longAct_cases s
  · rw [h, advanceBright_eq]
  · rw [h, capture_eq]

/-- A capture stores to the bytes of its slot alone, wherever `sidx` is. -/
theorem capture_slot_read_outside {s : State} (hwf : s.slot.wf = true) {a : Nat}
    (ha : a < slotAddr s.sidx ∨ slotAddr s.sidx + 3 < a) : (capture s).slot.read a = s.slot.read a := by
  rw [capture_eq]
  dsimp only
  split
  · exact Memory.read_writeTuple_outside s.slot _ a s.cur hwf ha
  · rfl

/-- Settles O46: the frame of each of the four outcomes of a TICK. -/
theorem tickFrame : Obligations.TickFrame := by
  unfold Obligations.TickFrame
  intro l s t hinv hexec
  obtain ⟨hadm, -, ⟨-, hheld, -, -⟩, ⟨hwf, -⟩, -⟩ := hinv
  refine ⟨exec_keepsOutside hexec, ?_⟩
  rw [execTick_of_admitted hadm] at hexec
  cases hexec
  obtain ⟨hdue, c, f, evs, held⟩ | ⟨hdue, c, animating⟩ | ⟨hold, rfl, short⟩ | ⟨hdue, long⟩ :=
    tickCycle_outcomes (fun hold => (hheld hold).2) l
  · rw [held]
    exact ⟨fun _ => ⟨rfl, rfl, fun _ => rfl⟩, fun h => absurd h hdue, fun h => absurd h hdue, fun _ => rfl,
      fun _ => ⟨rfl, rfl⟩⟩
  · obtain ⟨hcidx, hbidx, hsidx, hslot⟩ := anim_keepsSelector ((s.setCnt c).setFsm .idle)
    rw [animating]
    exact ⟨fun _ => ⟨hbidx, hsidx, fun a => congrArg (Memory.read · a) hslot⟩, fun h => absurd h hdue,
      fun h => absurd h hdue, fun _ => hcidx, fun h => by simp at h⟩
  · obtain ⟨-, hbidx, hsidx, hslot⟩ := anim_keepsSelector (((advanceColor s).setCnt 0).setFsm .idle)
    have hdue : ¬ s.longPressDue 1 := fun h => absurd h.2.1 (by decide)
    rw [short]
    exact ⟨fun _ => ⟨hbidx, hsidx, fun a => congrArg (Memory.read · a) hslot⟩, fun h => absurd h hdue,
      fun h => absurd h hdue, fun h => absurd ⟨hold, rfl⟩ h, fun h => by simp at h⟩
  · rw [long]
    refine ⟨fun h => absurd hdue h, fun _ => ⟨longAct_phase s, fun hact => ?bright⟩, fun _ hact => ?capture,
      fun _ => longAct_cidx s, fun h => ?held⟩
    case bright =>
      rw [longPress, longAct_of_advBright hact, advanceBright_eq]
      exact ⟨rfl, fun _ => rfl⟩
    case capture =>
      rw [longPress, longAct_of_capture hact]
      refine ⟨?_, ?_, fun a ha => capture_slot_read_outside hwf ha⟩
      · simp [capture_eq]
      · simp [capture_eq]
    case held =>
      obtain ⟨hold, -⟩ := hdue
      simp [hold] at h

/-! ## Runs of commands -/

theorem runCommands_cons_of_next {i : Instr} {s t : State} (h : exec i s = .next t) (is : List Instr) :
    runCommands (i :: is) s = runCommands is t := by
  rw [runCommands, h, andThen_next]

theorem runCommands_singleton (i : Instr) (s : State) : runCommands [i] s = exec i s := by
  rw [runCommands]
  cases exec i s <;> rfl

theorem runCommands_append_of_next {is : List Instr} {s t : State} (h : runCommands is s = .next t) (js : List Instr) :
    runCommands (is ++ js) s = runCommands js t := by
  rw [runCommands_append, h, andThen_next]

/-- `n` pressed samples. -/
abbrev pressedSamples (n : Nat) : List Instr := List.replicate n (.tick 0)

theorem runCommands_pressedSamples_add {m : Nat} {s t : State} (h : runCommands (pressedSamples m) s = .next t)
    (n : Nat) : runCommands (pressedSamples (m + n)) s = runCommands (pressedSamples n) t := by
  rw [pressedSamples, List.replicate_add, runCommands_append_of_next h]

theorem runCommands_pressedSamples_succ {m : Nat} {s t : State} (h : runCommands (pressedSamples m) s = .next t) :
    runCommands (pressedSamples (m + 1)) s = exec (.tick 0) t := by
  rw [runCommands_pressedSamples_add h 1]
  exact runCommands_singleton _ t

theorem runCommands_pressCommands {n : Nat} {s t : State} (h : runCommands (pressedSamples n) s = .next t) :
    runCommands (pressCommands n) s = exec (.tick 1) t := by
  rw [pressCommands, runCommands_append_of_next h, runCommands_singleton]

/-! ## Pressed samples in each mode -/

/-- RELWAIT waits (R165). -/
theorem run_pressed_of_relwait {s : State} (hadm : s.cfg.admitted = true) (h : s.fsm = .relwait) (m : Nat) :
    runCommands (pressedSamples m) s = .next s := by
  induction m with
  | zero => rfl
  | succ m ih =>
    rw [runCommands_pressedSamples_succ ih, execTick_of_relwait hadm h]
    rfl

/-- HOLD counts, while the counter does not pass `LONG_TH` (R163). -/
theorem run_pressed_of_hold {s : State} (hadm : s.cfg.admitted = true) (h : s.fsm = .hold) {m : Nat}
    (hm : ((satInc s.cfg)^[m] s.cnt).toNat ≤ s.cfg.longTh) :
    runCommands (pressedSamples m) s = .next (s.setCnt ((satInc s.cfg)^[m] s.cnt)) := by
  induction m with
  | zero => rfl
  | succ m ih =>
    rw [Function.iterate_succ_apply'] at hm ⊢
    generalize (satInc s.cfg)^[m] s.cnt = c at ih hm ⊢
    rw [runCommands_pressedSamples_succ (ih ((le_satInc _ _).trans hm)),
      execTick_of_hold (s := s.setCnt c) hadm h, pressed_zero, tickHold_pressed_of_le (s := s.setCnt c) hm]
    rfl

/-- ANIM neither reads nor writes the counter. -/
theorem anim_setCnt (s : State) (c : Byte) : anim (s.setCnt c) = (anim s).setCnt c :=
  calc anim (s.setCnt c)
    _ = ((anim s).setCnt c).setFsm s.fsm := anim_setCnt_setFsm s c s.fsm
    _ = (anim s).setCnt c := setFsm_eq_self (s := (anim s).setCnt c) (anim_fsm s)

theorem iterate_anim_cfg (s : State) (m : Nat) : (anim^[m] s).cfg = s.cfg := by
  induction m with
  | zero => rfl
  | succ m ih => rw [Function.iterate_succ_apply', (anim_keepsOutside _).1, ih]

theorem iterate_anim_fsm (s : State) (m : Nat) : (anim^[m] s).fsm = s.fsm := by
  induction m with
  | zero => rfl
  | succ m ih => rw [Function.iterate_succ_apply', anim_fsm, ih]

theorem iterate_anim_cnt (s : State) (m : Nat) : (anim^[m] s).cnt = s.cnt := by
  induction m with
  | zero => rfl
  | succ m ih => rw [Function.iterate_succ_apply', anim_cnt, ih]

/-- IDLE counts and animates, while the counter does not pass `SHORT_TH` (R162). -/
theorem run_pressed_of_idle {s : State} (hadm : s.cfg.admitted = true) (h : s.fsm = .idle) {m : Nat}
    (hm : ((satInc s.cfg)^[m] s.cnt).toNat ≤ s.cfg.shortTh) :
    runCommands (pressedSamples m) s = .next ((anim^[m] s).setCnt ((satInc s.cfg)^[m] s.cnt)) := by
  induction m with
  | zero => rfl
  | succ m ih =>
    have hcfg := iterate_anim_cfg s m
    rw [Function.iterate_succ_apply' (satInc s.cfg)] at hm ⊢
    generalize (satInc s.cfg)^[m] s.cnt = c at ih hm ⊢
    have hm' : (satInc (anim^[m] s).cfg c).toNat ≤ (anim^[m] s).cfg.shortTh := by rwa [hcfg]
    rw [runCommands_pressedSamples_succ (ih ((le_satInc _ _).trans hm)),
      execTick_of_idle (s := (anim^[m] s).setCnt c) (hcfg ▸ hadm) ((iterate_anim_fsm s m).trans h), pressed_zero,
      tickIdle_pressed_of_le (s := (anim^[m] s).setCnt c) hm', Function.iterate_succ_apply' anim, ← anim_setCnt, ← hcfg]
    rfl

/-! ## A button held without end -/

/-- Settles O48: in RELWAIT the samples wait, in HOLD they count no further than `CNT_MAX`; and no host command is accepted there
(R226, log entry 14). -/
theorem heldButtonStopsTheAnimation : Obligations.HeldButtonStopsTheAnimation := by
  unfold Obligations.HeldButtonStopsTheAnimation
  refine fun s n hadm => ⟨fun hwait => ⟨run_pressed_of_relwait hadm hwait n, fun i => ?_⟩, fun hold hmax hcnt => ?_⟩
  · have hne : s.fsm ≠ .idle := by simp [hwait]
    exact ⟨execSetc_of_ne_idle hadm hne i, execSetb_of_ne_idle hadm hne i⟩
  · have hne : s.fsm ≠ .idle := by simp [hold]
    have hcount : ((satInc s.cfg)^[n] s.cnt).toNat ≤ s.cfg.longTh := by
      rw [iterate_satInc_toNat hcnt]
      exact (min_le_right _ _).trans hmax
    refine ⟨_, run_pressed_of_hold hadm hold hcount, fun i => ?_⟩
    generalize (satInc s.cfg)^[n] s.cnt = c
    exact ⟨execSetc_of_ne_idle (s := s.setCnt c) hadm hne i, execSetb_of_ne_idle (s := s.setCnt c) hadm hne i⟩

/-! ## The end of a HOLD -/

/-- A sample in HOLD leaves it, or is pressed and counts within `LONG_TH`. -/
theorem tickHold_leaves_or_counts {s : State} (hold : s.fsm = .hold) (hcnt : s.cnt.toNat ≤ s.cfg.longTh)
    (l : ButtonLevel) :
    (tickHold (pressed l) s).fsm ≠ .hold ∨
      (satInc s.cfg s.cnt).toNat ≤ s.cfg.longTh ∧ tickHold (pressed l) s = s.setCnt (satInc s.cfg s.cnt) := by
  obtain rfl | rfl := buttonLevel_cases l
  · by_cases hlong : s.cfg.longTh < (satInc s.cfg s.cnt).toNat
    · left
      simp [tickHold_fsm hold hcnt, hlong]
    · exact .inr ⟨Nat.not_lt.mp hlong, tickHold_pressed_of_le (Nat.not_lt.mp hlong)⟩
  · left
    simp [tickHold_fsm hold hcnt]

/-- Each sample that stays in HOLD counts by one, so more samples than `LONG_TH - cnt` leave it. -/
theorem exists_take_leaves_hold (ls : List ButtonLevel) {s : State} (hadm : s.cfg.admitted = true)
    (hold : s.fsm = .hold) (hcnt : s.cnt.toNat ≤ s.cfg.longTh) (hmax : s.cfg.longTh < s.cfg.cntMax.toNat)
    (hlen : s.cfg.longTh < s.cnt.toNat + ls.length) :
    ∃ k t, k ≤ ls.length ∧ runCommands ((ls.take k).map Instr.tick) s = .next t ∧ t.fsm ≠ .hold := by
  induction ls generalizing s with
  | nil => exact absurd hcnt (Nat.not_le.mpr hlen)
  | cons l ls ih =>
    have htick := execTick_of_hold hadm hold l
    obtain left | ⟨hlong, stays⟩ := tickHold_leaves_or_counts hold hcnt l
    · exact ⟨1, _, by simp, (runCommands_singleton _ s).trans htick, left⟩
    · have hinc : (satInc s.cfg s.cnt).toNat = s.cnt.toNat + 1 := by
        rw [satInc_toNat, if_pos (hcnt.trans_lt hmax)]
      rw [stays] at htick
      rw [List.length_cons] at hlen
      have hlen' : s.cfg.longTh < (satInc s.cfg s.cnt).toNat + ls.length := by omega
      obtain ⟨k, t, hk, hrun, left⟩ := ih (s := s.setCnt (satInc s.cfg s.cnt)) hadm hold hlong hmax hlen'
      exact ⟨k + 1, t, Nat.succ_le_succ hk, (runCommands_cons_of_next htick _).trans hrun, left⟩

/-- Settles O49: the counter of a HOLD is above `SHORT_TH`, so `LONG_TH - SHORT_TH` samples are enough (R225). -/
theorem holdIsLeftInBoundedTicks : Obligations.HoldIsLeftInBoundedTicks := by
  unfold Obligations.HoldIsLeftInBoundedTicks
  intro s ls hadm hold hshort hlong hmax hlen
  exact exists_take_leaves_hold ls hadm hold hlong hmax (by omega)

end Sys2Proof.Machine
end

section
/-! The laws of a press (R168): the action by the number of its samples; and those of the two indices (R135). -/

namespace Sys2Proof.Machine

/-! ## HOLD entered from an unpressed IDLE -/

/-- A press can begin: an admitted configuration, IDLE, and the counter at 0. -/
structure Unpressed (s : State) : Prop where
  admitted : s.cfg.admitted = true
  idle : s.fsm = .idle
  zero : s.cnt = 0

/-- `s` in HOLD after the blank, with the counter `c` (R162, R163). -/
def heldState (s : State) (c : Byte) : State := ((blank s).setCnt c).setFsm .hold

/-- The sample that carries the counter past `SHORT_TH` enters HOLD. -/
theorem execTick_enters_hold {s : State} (hs : Unpressed s) {c : Byte} (h : s.cfg.shortTh < (satInc s.cfg c).toNat) :
    exec (.tick 0) (s.setCnt c) = .next (heldState s (satInc s.cfg c)) := by
  rw [execTick_of_idle (s := s.setCnt c) hs.admitted hs.idle, pressed_zero, tickIdle_pressed_of_lt (s := s.setCnt c) h]
  rfl

theorem run_pressed_heldState {s : State} (hs : Unpressed s) {c : Byte} {m : Nat}
    (hm : ((satInc s.cfg)^[m] c).toNat ≤ s.cfg.longTh) :
    runCommands (pressedSamples m) (heldState s c) = .next (heldState s ((satInc s.cfg)^[m] c)) :=
  run_pressed_of_hold (s := heldState s c) hs.admitted rfl hm

/-- A release in HOLD is a short press, which clears the counter and goes back to IDLE (R164). -/
theorem execTick_released_heldState {s : State} (hs : Unpressed s) {c : Byte} (h : c.toNat ≤ s.cfg.longTh) :
    exec (.tick 1) (heldState s c) = .next (anim (advanceColor (blank s))) := by
  have hback : (((advanceColor (blank s)).setCnt 0).setFsm .idle) = advanceColor (blank s) :=
    setCnt_setFsm_eq_self hs.zero hs.idle
  rw [execTick_of_hold (s := heldState s c) hs.admitted rfl, pressed_one, tickHold_released_of_le (s := heldState s c) h,
    ← hback]
  rfl

/-- The sample that carries the counter past `LONG_TH` is the long press (R164). -/
theorem execTick_longPress_heldState {s : State} (hs : Unpressed s) {c : Byte}
    (h : s.cfg.longTh < (satInc s.cfg c).toNat) :
    exec (.tick 0) (heldState s c) = .next (longPress (blank s)) := by
  rw [execTick_longPress (s := heldState s c) hs.admitted rfl h, longPress_setCnt, heldState, longPress_setCnt_setFsm]

theorem longAct_cnt (s : State) : (longAct s).cnt = s.cnt := by
  obtain ⟨-, h⟩ | ⟨-, h⟩ := longAct_cases s
  · rw [h, advanceBright_eq]
  · rw [h, capture_eq]

theorem longAct_fsm (s : State) : (longAct s).fsm = s.fsm := by
  obtain ⟨-, h⟩ | ⟨-, h⟩ := longAct_cases s
  · rw [h, advanceBright_eq]
  · rw [h, capture_eq]

/-- The release after a long press animates in the mode and at the counter that the press began with (R165). -/
theorem execTick_released_longPress {s : State} (hs : Unpressed s) :
    exec (.tick 1) (longPress s) = .next (anim (longAct s)) := by
  have hadm : (longPress s).cfg.admitted = true := (longAct_keepsOutside s).1 ▸ hs.admitted
  have hback : ((longAct s).setCnt 0).setFsm .idle = longAct s :=
    setCnt_setFsm_eq_self ((longAct_cnt s).trans hs.zero) ((longAct_fsm s).trans hs.idle)
  rw [execTick_of_relwait hadm rfl, pressed_one, tickRelwait_released, ← hback]
  rfl

/-! ## A press by the number of its samples -/

section Press
variable {s : State} (hs : Unpressed s)
include hs

theorem Unpressed.iterate_anim (m : Nat) : Unpressed (anim^[m] s) :=
  ⟨iterate_anim_cfg s m ▸ hs.admitted, (iterate_anim_fsm s m).trans hs.idle, (iterate_anim_cnt s m).trans hs.zero⟩

theorem Unpressed.count_toNat (m : Nat) : ((satInc s.cfg)^[m] s.cnt).toNat = min m s.cfg.cntMax.toNat := by
  have hzero : s.cnt.toNat = 0 := by rw [hs.zero]; rfl
  rw [iterate_satInc_toNat (by omega), hzero, Nat.zero_add]

/-- Up to `SHORT_TH` samples animate (R162). -/
theorem Unpressed.run_pressed {m : Nat} (hm : m ≤ s.cfg.shortTh) :
    runCommands (pressedSamples m) s = .next ((anim^[m] s).setCnt ((satInc s.cfg)^[m] s.cnt)) := by
  have hcount := hs.count_toNat m
  exact run_pressed_of_idle hs.admitted hs.idle (by omega)

/-- More samples animate `SHORT_TH` times, enter HOLD and count on, while the counter does not pass `LONG_TH` (R162, R163). -/
theorem Unpressed.run_held (hmax : s.cfg.shortTh < s.cfg.cntMax.toNat) {m : Nat} (hm : s.cfg.shortTh < m)
    (hlong : min m s.cfg.cntMax.toNat ≤ s.cfg.longTh) :
    runCommands (pressedSamples m) s = .next (heldState (anim^[s.cfg.shortTh] s) ((satInc s.cfg)^[m] s.cnt)) := by
  have hx := hs.iterate_anim s.cfg.shortTh
  have hcfg := iterate_anim_cfg s s.cfg.shortTh
  have hshort := hs.run_pressed le_rfl
  have hnext := hs.count_toNat (s.cfg.shortTh + 1)
  have hcount := hs.count_toNat m
  obtain ⟨k, rfl⟩ := Nat.exists_eq_add_of_lt hm
  have hiterate : (satInc s.cfg)^[s.cfg.shortTh + 1 + k] s.cnt =
      (satInc s.cfg)^[k] ((satInc s.cfg)^[s.cfg.shortTh + 1] s.cnt) := by
    rw [Nat.add_comm, Function.iterate_add_apply]
  rw [Nat.add_right_comm, hiterate] at hcount ⊢
  rw [Function.iterate_succ_apply'] at hnext hcount ⊢
  generalize anim^[s.cfg.shortTh] s = x at hx hcfg hshort ⊢
  generalize (satInc s.cfg)^[s.cfg.shortTh] s.cnt = c at hshort hnext hcount ⊢
  rw [← hcfg] at hshort hnext hcount hlong hmax ⊢
  have henter := execTick_enters_hold hx (c := c) (by omega)
  rw [runCommands_pressedSamples_add ((runCommands_pressedSamples_succ hshort).trans henter)]
  exact run_pressed_heldState hx (by omega)

/-- R168 (a). -/
theorem Unpressed.run_press_of_le {n : Nat} (hn : n ≤ s.cfg.shortTh) :
    runCommands (pressCommands n) s = .next (anim^[n + 1] s) := by
  have hx := hs.iterate_anim n
  rw [runCommands_pressCommands (hs.run_pressed hn), Function.iterate_succ_apply']
  generalize (satInc s.cfg)^[n] s.cnt = c
  generalize anim^[n] s = x at hx ⊢
  have hback : (x.setCnt c).setCnt 0 = x := setCnt_eq_self hx.zero
  rw [execTick_of_idle (s := x.setCnt c) hx.admitted hx.idle, pressed_one, tickIdle_released, hback]

/-- R168 (b), and where `LONG_TH >= CNT_MAX` every longer press too. -/
theorem Unpressed.run_press_short (hmax : s.cfg.shortTh < s.cfg.cntMax.toNat) {n : Nat} (hn : s.cfg.shortTh < n)
    (hlong : min n s.cfg.cntMax.toNat ≤ s.cfg.longTh) :
    runCommands (pressCommands n) s = .next (anim (advanceColor (blank (anim^[s.cfg.shortTh] s)))) := by
  have hcount := hs.count_toNat n
  rw [runCommands_pressCommands (hs.run_held hmax hn hlong)]
  refine execTick_released_heldState (hs.iterate_anim _) ?_
  rw [iterate_anim_cfg, hcount]
  exact hlong

/-- R168 (c): the sample after `LONG_TH` is the long press, and further ones wait in RELWAIT. -/
theorem Unpressed.run_press_long (hmax : s.cfg.longTh < s.cfg.cntMax.toNat) {n : Nat} (hn : s.cfg.longTh < n) :
    runCommands (pressCommands n) s = .next (anim (longAct (blank (anim^[s.cfg.shortTh] s)))) := by
  have hx := hs.iterate_anim s.cfg.shortTh
  have hcfg := iterate_anim_cfg s s.cfg.shortTh
  have hth := Config.thresholds_of_wf (Config.wf_of_admitted hs.admitted)
  have hheld := hs.run_held (hth.trans hmax) hth (min_le_left _ _)
  have hnext := hs.count_toNat (s.cfg.longTh + 1)
  rw [Function.iterate_succ_apply'] at hnext
  generalize (satInc s.cfg)^[s.cfg.longTh] s.cnt = c at hheld hnext
  generalize anim^[s.cfg.shortTh] s = x at hx hcfg hheld ⊢
  rw [← hcfg] at hnext hmax hn hheld
  have hblank : Unpressed (blank x) := ⟨hx.admitted, hx.idle, hx.zero⟩
  have hadm : (longPress (blank x)).cfg.admitted = true := (longAct_keepsOutside (blank x)).1 ▸ hx.admitted
  have hlong := execTick_longPress_heldState hx (c := c) (by omega)
  obtain ⟨k, rfl⟩ := Nat.exists_eq_add_of_lt hn
  have hrun : runCommands (pressedSamples (x.cfg.longTh + k + 1)) s = .next (longPress (blank x)) := by
    rw [Nat.add_right_comm, runCommands_pressedSamples_add ((runCommands_pressedSamples_succ hheld).trans hlong)]
    exact run_pressed_of_relwait hadm rfl k
  rw [runCommands_pressCommands hrun, execTick_released_longPress hblank]

end Press

/-- Settles O47: a press by the number of its samples (R168). -/
theorem pressLengthDecidesTheAction : Obligations.PressLengthDecidesTheAction := by
  unfold Obligations.PressLengthDecidesTheAction
  intro s n hadm hidle hzero _
  have hs : Unpressed s := ⟨hadm, hidle, hzero⟩
  exact ⟨hs.run_press_of_le, fun hmax hn hlong => hs.run_press_short hmax hn (min_le_iff.mpr hlong),
    fun hmax hn => hs.run_press_long hmax hn⟩

/-! ## The indices -/

/-- `k` advances of an index add `k` modulo the length of its table. -/
theorem iterate_wrapInc_toNat {i : Byte} {n : Nat} (hi : i.toNat < n) (hn : n ≤ 256) (k : Nat) :
    ((wrapInc · n)^[k] i).toNat = (i.toNat + k) % n := by
  induction k with
  | zero => exact (Nat.mod_eq_of_lt hi).symm
  | succ k ih =>
    have hlt : ((wrapInc · n)^[k] i).toNat < n := ih ▸ Nat.mod_lt _ (Nat.zero_lt_of_lt hi)
    have hmod : ((i.toNat + k) % n + 1) % n < 2 ^ 8 := (Nat.mod_lt _ (Nat.zero_lt_of_lt hi)).trans_le hn
    rw [Function.iterate_succ_apply', wrapInc_eq_ofNat_mod hlt hn, ih, BitVec.toNat_ofNat, Nat.mod_eq_of_lt hmod,
      Nat.mod_add_mod, Nat.add_assoc]

/-- An operation that keeps the configuration and advances one index of a table of `n` entries is back at the index after `n`
times. -/
theorem iterate_advance_cycles {f : State → State} {idx : State → Byte} {s : State} {n : Nat} (hi : (idx s).toNat < n)
    (hn : n ≤ 256) (hf : ∀ u, u.cfg = s.cfg → (f u).cfg = s.cfg ∧ idx (f u) = wrapInc (idx u) n) :
    idx (f^[n] s) = idx s := by
  have hiterate (k : Nat) : (f^[k] s).cfg = s.cfg ∧ idx (f^[k] s) = (wrapInc · n)^[k] (idx s) := by
    induction k with
    | zero => exact ⟨rfl, rfl⟩
    | succ k ih =>
      obtain ⟨hcfg, hidx⟩ := ih
      rw [Function.iterate_succ_apply', Function.iterate_succ_apply', ← hidx]
      exact hf _ hcfg
  rw [(hiterate n).2, ← BitVec.toNat_inj, iterate_wrapInc_toNat hi hn, Nat.add_mod_right, Nat.mod_eq_of_lt hi]

/-- An index beyond the table is turned away in IDLE, and every index outside it (R132, R133, log entry 14). -/
theorem execSetc_of_le {s : State} {i : Byte} (hadm : s.cfg.admitted = true) (h : s.cfg.nColor ≤ i.toNat) :
    exec (.setc i) s = .next s := by
  rw [execSetc_of_admitted hadm, setColorPlan_of_not_lt (Nat.not_lt.mpr h), ite_self]

theorem execSetb_of_le {s : State} {i : Byte} (hadm : s.cfg.admitted = true) (h : s.cfg.nBright ≤ i.toNat) :
    exec (.setb i) s = .next s := by
  rw [execSetb_of_admitted hadm, setBrightPlan_of_not_lt (Nat.not_lt.mpr h), ite_self]

theorem execSetc_of_lt {s : State} {i : Byte} (hadm : s.cfg.admitted = true) (hidle : s.fsm = .idle)
    (h : i.toNat < s.cfg.nColor) : exec (.setc i) s = .next { s with cidx := i } := by
  rw [execSetc_of_idle hadm hidle, setColorPlan_of_lt h]

/-- The shortest short press: the sample that passes `SHORT_TH` and the release (R162, R164). -/
theorem run_shortestPress {s : State} (hadm : s.cfg.admitted = true) (hidle : s.fsm = .idle)
    (hcnt : s.cnt.toNat = s.cfg.shortTh) (hmax : s.cfg.shortTh < s.cfg.cntMax.toNat) :
    ∃ t, runCommands [.tick 0, .tick 1] s = .next t ∧ t.cfg = s.cfg ∧ t.fsm = .idle ∧
      t.cidx = wrapInc s.cidx s.cfg.nColor := by
  have hs : Unpressed (s.setCnt 0) := ⟨hadm, hidle, rfl⟩
  have hth := Config.thresholds_of_wf (Config.wf_of_admitted hadm)
  have hinc : (satInc s.cfg s.cnt).toNat = s.cfg.shortTh + 1 := by
    rw [satInc_toNat, if_pos (hcnt ▸ hmax), hcnt]
  have henter : exec (.tick 0) s = .next (heldState (s.setCnt 0) (satInc s.cfg s.cnt)) :=
    execTick_enters_hold (c := s.cnt) hs (hinc ▸ Nat.lt_succ_self _)
  have hrelease := execTick_released_heldState (c := satInc s.cfg s.cnt) hs (hinc ▸ hth)
  refine ⟨_, (runCommands_cons_of_next henter _).trans ((runCommands_singleton _ _).trans hrelease), ?_, ?_, ?_⟩
  · exact (anim_keepsOutside _).1
  · exact (anim_fsm _).trans hidle
  · exact anim_cidx _

/-- Settles O39: the advances by their cycle, the sets out of range by the check of the index, and the press before or after the
set by its advance from the index that it finds (R135). -/
theorem indexLaws : Obligations.IndexLaws := by
  unfold Obligations.IndexLaws
  refine ⟨?advances, fun s i hadm => ⟨execSetc_of_le hadm, execSetb_of_le hadm⟩, ?lastWriter⟩
  case advances =>
    rintro s ⟨hadm, hcidx, hbidx, -⟩
    obtain ⟨-, hcolor, -, hbright⟩ := Config.counts_of_wf (Config.wf_of_admitted hadm)
    constructor
    · exact iterate_advance_cycles (idx := State.cidx) hcidx hcolor fun u hu => ⟨hu, hu ▸ rfl⟩
    · exact iterate_advance_cycles (idx := State.bidx) hbidx hbright fun u hu => ⟨hu, hu ▸ rfl⟩
  case lastWriter =>
    intro s i hadm hidle hcnt hmax hi
    constructor
    · obtain ⟨t, hrun, -, -, hcidx⟩ := run_shortestPress (s := { s with cidx := i }) hadm hidle hcnt hmax
      exact ⟨t, (runCommands_cons_of_next (execSetc_of_lt hadm hidle hi) _).trans hrun, hcidx⟩
    · obtain ⟨t, hrun, hcfg, hback, -⟩ := run_shortestPress hadm hidle hcnt hmax
      have hset : exec (.setc i) t = .next { t with cidx := i } := execSetc_of_lt (hcfg ▸ hadm) hback (hcfg ▸ hi)
      exact ⟨_, (runCommands_append_of_next hrun [.setc i]).trans ((runCommands_singleton _ t).trans hset), rfl⟩

end Sys2Proof.Machine
end
